-- ==== Sys2Proof/Word.lean ====
section
/-!
DEFINITION. The word types of BIP39ENC (20_memory.md R60 to R62, 00_scope.md R15). Every quantity the spec treats as bits is a `BitVec`;
bit 0 is the least significant (R9), `++` puts its left argument in the high bits (R11).
-/

namespace Sys2Proof

/-- A 32-bit word of the host register space (20_memory.md R61). -/
abbrev Word32 := BitVec 32

/-- A 12-bit byte address of the host register space (20_memory.md R60). -/
abbrev Addr := BitVec 12

/-- An 8-bit byte (00_scope.md R12). -/
abbrev Byte := BitVec 8

/-- An 8-bit character code (00_scope.md R15). -/
abbrev Char8 := BitVec 8

end Sys2Proof
end

