-- ==== Sys2Proof/Syntax.lean ====
section
/-!
DEFINITION. The seven host commands (30_encoding.md R92) and the fields of a command word (R90).
-/

namespace Sys2Proof

/-- The block's instructions: one constructor per row of the opcode table (30_encoding.md R92). The only operand is
the 8-bit character code `arg` of PUTC and SEL (R91). -/
inductive Instr where
  /-- NOP, 45_control.md R220 -/
  | nop
  /-- INIT, 45_control.md R221 -/
  | init
  /-- CLEAR, 45_control.md R222 -/
  | clear
  /-- PUTC c, 40_normalizer.md R121 -/
  | putc (c : Char8)
  /-- END, 40_normalizer.md R122 -/
  | endText
  /-- SEL c, 44_entropy_source.md R201 -/
  | sel (c : Char8)
  /-- DRAW, 44_entropy_source.md R202 -/
  | draw
  deriving DecidableEq, Repr

/-- The four fields of the 32-bit command word (30_encoding.md R90): bits 31:16, 15:12, 11:8 and 7:0. -/
structure CommandWord where
  zeroHi : BitVec 16
  op     : BitVec 4
  zeroLo : BitVec 4
  arg    : BitVec 8
  deriving DecidableEq, Repr

end Sys2Proof
end

