-- ==== Sys2Proof/WellFormed.lean ====
section
/-!
DEFINITION. Which command words are malformed, whatever the phase (30_encoding.md R93), each check under a name of its own. A term of
`Instr` is well-formed by its type (its operand is an 8-bit code), so the check stands on the word's fields.
-/

namespace Sys2Proof

/-- Why a command word is malformed (30_encoding.md R93). All are treated alike by 45_control.md R223. -/
inductive Malformed where
  /-- bits 31:16 are not all zero -/
  | zeroHi
  /-- bits 11:8 are not all zero -/
  | zeroLo
  /-- `op` is 0x7 to 0xF -/
  | reservedOp
  /-- `op` is NOP, INIT, CLEAR, END or DRAW and `arg` is not zero -/
  | argNonzero
  deriving DecidableEq, Repr

/-- The opcodes whose `arg` must be zero (30_encoding.md R92, R93): NOP, INIT, CLEAR, END, DRAW. -/
def takesNoArg (op : BitVec 4) : Bool :=
  op == 0 || op == 1 || op == 2 || op == 4 || op == 6

/-- The checks of 30_encoding.md R94 that do not depend on the phase, in its order. -/
def CommandWord.malformed (w : CommandWord) : Option Malformed :=
  if w.zeroHi ≠ 0 then some .zeroHi
  else if w.zeroLo ≠ 0 then some .zeroLo
  else if 7 ≤ w.op.toNat then some .reservedOp
  else if takesNoArg w.op ∧ w.arg ≠ 0 then some .argNonzero
  else none

/-- A command word none of R93's phase-independent checks refuses. -/
def CommandWord.wellFormed (w : CommandWord) : Bool := w.malformed.isNone

end Sys2Proof
end

