-- ==== Sys2Proof/Decode.lean ====
section
/-!
DEFINITION. Command decode, total on all 2^32 words (30_encoding.md R94, its phase-independent part), and the encoder (R92). The phase
part of R94 is `legal` of `Machine/Ops.lean`. The words written out for every constructor stand in
`Tests/Slice0.lean`.
-/

namespace Sys2Proof

/-- What a 32-bit word written to `CMD` says: a command, or an illegal word and why. -/
inductive Decoded where
  | command (i : Instr)
  | illegal (why : Malformed)
  deriving DecidableEq, Repr

/-- The fields of a command word (30_encoding.md R90). -/
def fieldsOf (v : Word32) : CommandWord :=
  { zeroHi := v.extractLsb' 16 16
    op     := v.extractLsb' 12 4
    zeroLo := v.extractLsb' 8 4
    arg    := v.extractLsb' 0 8 }

/-- The word with these fields. -/
def wordOf (w : CommandWord) : Word32 := w.zeroHi ++ w.op ++ w.zeroLo ++ w.arg

/-- 30_encoding.md R94 without the phase test; R91: the operand is `arg` as it stands. -/
def decode (v : Word32) : Decoded :=
  let w := fieldsOf v
  match w.malformed with
  | some why => .illegal why
  | none =>
    match w.op with
    | 0x0#4 => .command .nop
    | 0x1#4 => .command .init
    | 0x2#4 => .command .clear
    | 0x3#4 => .command (.putc w.arg)
    | 0x4#4 => .command .endText
    | 0x5#4 => .command (.sel w.arg)
    | 0x6#4 => .command .draw
    | _     => .illegal .reservedOp

/-- The opcode of a command (30_encoding.md R92). -/
def Instr.opcode : Instr → BitVec 4
  | .nop     => 0x0
  | .init    => 0x1
  | .clear   => 0x2
  | .putc _  => 0x3
  | .endText => 0x4
  | .sel _   => 0x5
  | .draw    => 0x6

/-- The `arg` field of a command (30_encoding.md R92): the character, or zero. -/
def Instr.argument : Instr → BitVec 8
  | .putc c  => c
  | .sel c   => c
  | .nop     => 0
  | .init    => 0
  | .clear   => 0
  | .endText => 0
  | .draw    => 0

/-- The word of a command (30_encoding.md R92, column "encoding of v"). -/
def encode (i : Instr) : Word32 :=
  wordOf { zeroHi := 0, op := i.opcode, zeroLo := 0, arg := i.argument }

/-- The host's reading of one row of the opcode table: the decoder's answer to the word whose low `nbits` bits are
those of `w`, the others zero. A command is one 32-bit write (30_encoding.md R90), so no byte order enters. -/
def decodeTableWord (nbits w : Nat) : Option Instr :=
  match decode (BitVec.ofNat 32 (w % 2 ^ nbits)) with
  | .command i => some i
  | .illegal _ => none

end Sys2Proof
end

