-- ==== Sys2Proof/Config.lean ====
section
/-!
DEFINITION. What the spec leaves to another unit and no state holds (00_scope.md R7). Of R7's parameters, `HASH256` is instantiated in
`Machine/Sha256.lean`, `WL` and `Word` are arguments of the views of `Machine/Readout.lean`, the provider's outputs are
inputs held in `State.provider`; what remains is the Bit Source's oracle.
-/

namespace Sys2Proof.Config

/-- Free value (44_entropy_source.md R203, "each answer is a free input of the step"): the Bit Source's answer to
request number `n`, for requests whose answer the environment has not already fixed in `State.bits`. Log 5. -/
opaque bitDraw : Nat → Bool

end Sys2Proof.Config
end

