-- ==== Sys2Proof/Machine/State.lean ====
section
/-!
DEFINITION. The state of BIP39ENC (10_state.md R20 to R36), the port's outputs and the environment's inputs, and the reasons a step
can stop. `Block` is exactly the table of R20, "Nothing else is state"; the other fields of `State` stand outside the
block (R37) and are listed in INVENTORY.md.
-/

namespace Sys2Proof.Machine

/-- `PHASE`, the only control state (10_state.md R21). Value 7 is never taken (U9), so it has no constructor. -/
inductive Phase where
  | reset | text | select | rand | done | error | fatal
  deriving DecidableEq, Repr

/-- `WIDTH`, D0's EntropyWidth (10_state.md R22). -/
inductive Width where
  | bits128 | bits256
  deriving DecidableEq, Repr

/-- `SRC`, how the entropy of a finished run was obtained (10_state.md R23). -/
inductive Src where
  | noSource | binText | hexText | manual | drawn
  deriving DecidableEq, Repr

/-- The seven error kinds, in the order of their codes 1 to 7 (30_encoding.md R98, 60_exceptions.md R240). -/
inductive ErrKind where
  | wordlistMissing
  | wordlistMalformed
  | insufficientEntropy
  | invalidHexLength
  | invalidInputFormat
  | invalidWidthSelector
  | wordlistCorrupt
  deriving DecidableEq, Repr

/-- The whole state of the block: the elements of 10_state.md R20's table, in its order. -/
structure Block where
  /-- R21 -/
  phase : Phase
  /-- R22: which width; `bits128` and without meaning while `wvalid` is false -/
  width : Width
  /-- R22: `width` has been determined in this run -/
  wvalid : Bool
  /-- R24: sticky, a command or host access was refused -/
  cmderr : Bool
  /-- R23 -/
  src : Src
  /-- R25: the error kind of the aborted run; `none` is code 0 -/
  err : Option ErrKind
  /-- R26: characters collected, 0 to 256, saturating -/
  cnt : Fin 257
  /-- R27: every character so far was '0' or '1' -/
  allbin : Bool
  /-- R27: every character so far was a hex digit -/
  allhex : Bool
  /-- R28: the first 256 characters read as bits, the first at bit 255 -/
  binbuf : BitVec 256
  /-- R29: the first 64 characters read as nibbles, the first at bits 255:252 -/
  hexbuf : BitVec 256
  /-- R30: Entropy, left-aligned -/
  ent : BitVec 256
  /-- R31: the raw digest -/
  dig : BitVec 256
  /-- R32: ChecksumBits, right-aligned -/
  cs : BitVec 8
  /-- R33: FullBitstream, left-aligned -/
  full : BitVec 264
  /-- R34: the WordIndex sequence in stream order -/
  idx : Vector (BitVec 11) 24
  /-- R35: which word the wordlist port addresses -/
  wsel : BitVec 5
  /-- R36: the provider's entry count, latched by INIT -/
  wllen : BitVec 12
  /-- R36: the provider's "missing" verdict, latched by INIT -/
  wlmissing : Bool
  /-- R36: the provider's "malformed" verdict, latched by INIT -/
  wlmalformed : Bool
  /-- R36: INIT has run since reset -/
  wlchecked : Bool
  deriving DecidableEq, Repr

/-- The Wordlist Provider's status outputs (20_memory.md R66), inputs of the block. -/
structure ProviderPort where
  /-- `wl_missing`: the provider has no wordlist -/
  missing : Bool
  /-- `wl_malformed`: its list does not have exactly 2048 entries -/
  malformed : Bool
  /-- `wl_len`: how many entries it holds -/
  len : BitVec 12
  deriving DecidableEq, Repr

/-- The Bit Source (44_entropy_source.md R203): the answers `queue` are fixed in advance (a fake source puts its bits
here); after them it goes on with free answers if `live`, and never answers again if not (70_reset_and_hazards.md
R287). `requests` counts the requests answered. Log 5. -/
structure BitSource where
  queue    : List Bool
  live     : Bool
  requests : Nat
  deriving DecidableEq, Repr

/-- What the outside can do to the block in one step: a host transaction (20_memory.md R61), a hardware reset
(70_reset_and_hazards.md R280), or a change of the provider's outputs (R282, 93_implementation_defined.md U4). -/
inductive Event where
  /-- `MemWrite(addr, 4, v)` -/
  | write (addr : Addr) (v : Word32)
  /-- `MemRead(addr, 4)` -/
  | read (addr : Addr)
  /-- `rst_n` low and released again -/
  | hardReset
  /-- the Wordlist Provider's outputs become `p` -/
  | provider (p : ProviderPort)
  deriving DecidableEq, Repr

/-- The block, the port's outputs and the environment's inputs. -/
structure State where
  /-- the block's state, all of 10_state.md R20 -/
  blk : Block
  /-- `herr`: the last host access was refused (20_memory.md R69) -/
  herr : Bool
  /-- the data the last host access returned; `none` after a write (20_memory.md R61) -/
  rdata : Option Word32
  /-- what the outside does next, first event first (log 2) -/
  pending : List Event
  /-- the Wordlist Provider's outputs now (log 6) -/
  provider : ProviderPort
  /-- the Bit Source (log 5) -/
  bits : BitSource
  deriving DecidableEq, Repr

/-- Why a step stops with a fault. -/
inductive Fault where
  /-- Raised by DRAW alone: the Bit Source never answers a request, so DRAW never completes and the Host is held for
  ever (70_reset_and_hazards.md R287, 93_implementation_defined.md U8, `stuck`). Safe: the machine has no further step. -/
  | bitSourceSilent
  deriving DecidableEq, Repr

/-- Why a step makes no claim. -/
inductive Refusal where
  /-- An instruction without a meaning; no arm of `exec` answers so. Safe. -/
  | notModelled (mnemonic : String)
  deriving DecidableEq, Repr

/-- The block after hardware reset (10_state.md R43): every element of the table at the table's value. -/
def Block.reset : Block :=
  { phase := .reset, width := .bits128, wvalid := false, cmderr := false, src := .noSource, err := none
    cnt := 0, allbin := true, allhex := true, binbuf := 0, hexbuf := 0
    ent := 0, dig := 0, cs := 0, full := 0, idx := Vector.replicate 24 0, wsel := 0
    wllen := 0, wlmissing := false, wlmalformed := false, wlchecked := false }

/-- The machine right after hardware reset: the block as 10_state.md R43 says, `herr` = 0 (70_reset_and_hazards.md
R281). The environment's fields are DESIGN CHOICE (log 1): nothing pending, the good provider of 00_scope.md R7, a
Bit Source with nothing fixed in advance that answers every request. -/
def State.reset : State :=
  { blk := Block.reset, herr := false, rdata := none, pending := []
    provider := { missing := false, malformed := false, len := 2048 }
    bits := { queue := [], live := true, requests := 0 } }

end Sys2Proof.Machine
end

