-- ==== Sys2Proof/Machine/Operands.lean ====
section
/-!
DEFINITION. Operand forms: the codes of the enumerated registers (10_state.md R21 to R25), the quantities the width determines (R22), character
classes (30_encoding.md R95 to R97), and the slices, alignments and byte orders of 00_scope.md R9 to R12.
-/

namespace Sys2Proof.Machine

/-! ### Codes of the enumerations -/

/-- The value of `PHASE` (10_state.md R21). -/
def Phase.code : Phase → BitVec 3
  | .reset => 0 | .text => 1 | .select => 2 | .rand => 3 | .done => 4 | .error => 5 | .fatal => 6

/-- The value of `WIDTH` (10_state.md R22). -/
def Width.code : Width → BitVec 1
  | .bits128 => 0 | .bits256 => 1

/-- The value of `SRC` (10_state.md R23). -/
def Src.code : Src → BitVec 3
  | .noSource => 0 | .binText => 1 | .hexText => 2 | .manual => 3 | .drawn => 4

/-- The code of an error kind (30_encoding.md R98). -/
def ErrKind.code : ErrKind → BitVec 4
  | .wordlistMissing      => 1
  | .wordlistMalformed    => 2
  | .insufficientEntropy  => 3
  | .invalidHexLength     => 4
  | .invalidInputFormat   => 5
  | .invalidWidthSelector => 6
  | .wordlistCorrupt      => 7

/-- The value of `ERR`: a kind's code, or 0 (30_encoding.md R98). -/
def errCode : Option ErrKind → BitVec 4
  | none   => 0
  | some e => e.code

/-! ### What the width determines (10_state.md R22, 00_scope.md R6) -/

/-- N, the entropy width in bits. -/
def Width.entropyBits : Width → Nat
  | .bits128 => 128
  | .bits256 => 256

/-- byte_length = N/8. -/
def Width.byteLength (w : Width) : Nat := w.entropyBits / 8

/-- checksum_bits = N/32. -/
def Width.checksumBits (w : Width) : Nat := w.entropyBits / 32

/-- total_bits = N + checksum_bits. -/
def Width.totalBits (w : Width) : Nat := w.entropyBits + w.checksumBits

/-- word_count = floor(total_bits / 11); a shorter trailing group is discarded (42_encoder.md R162, R163). -/
def Width.wordCount (w : Width) : Nat := w.totalBits / 11

/-! ### Characters -/

/-- `isbin(c)` (30_encoding.md R97): the characters '0' and '1'. -/
def isbin (c : Char8) : Bool := c == 0x30 || c == 0x31

/-- `binval(c) = c[0]` (30_encoding.md R97). -/
def binval (c : Char8) : BitVec 1 := c.extractLsb' 0 1

/-- `hexval(c)` (30_encoding.md R97), case-insensitive; `none` for the other 234 codes (R95). -/
def hexval (c : Char8) : Option (BitVec 4) :=
  if 0x30 ≤ c.toNat ∧ c.toNat ≤ 0x39 then some (BitVec.ofNat 4 (c.toNat - 0x30))
  else if 0x41 ≤ c.toNat ∧ c.toNat ≤ 0x46 then some (BitVec.ofNat 4 (c.toNat - 0x37))
  else if 0x61 ≤ c.toNat ∧ c.toNat ≤ 0x66 then some (BitVec.ofNat 4 (c.toNat - 0x57))
  else none

/-- `hexval(c) != none`. -/
def ishex (c : Char8) : Bool := (hexval c).isSome

/-! ### Slices and alignment -/

/-- `v[lo+k-1 : lo] <- x` (00_scope.md R13): the other bits of `v` stay. -/
def writeSlice {w k : Nat} (v : BitVec w) (lo : Nat) (x : BitVec k) : BitVec w :=
  (v &&& ~~~((BitVec.allOnes k).setWidth w <<< lo)) ||| (x.setWidth w <<< lo)

/-- `v[255 : 256-N] ++ zeros(256-N)`: the first N bits of a left-aligned value (40_normalizer.md R124, R125,
44_entropy_source.md R204). -/
def firstBits (w : Width) (v : BitVec 256) : BitVec 256 :=
  match w with
  | .bits128 => v.extractLsb' 128 128 ++ 0#128
  | .bits256 => v

/-- The N entropy bits `E[255 : 256-N]` of a left-aligned entropy (10_state.md R30). -/
def entropyOf (w : Width) (e : BitVec 256) : BitVec w.entropyBits :=
  e.extractLsb' (256 - w.entropyBits) w.entropyBits

/-- `bytes(v)` (00_scope.md R12): byte `j` is `v[n-1-8j : n-8-8j]`, byte 0 the most significant. -/
def bytesOf {n : Nat} (v : BitVec n) : List Byte :=
  (List.range (n / 8)).map fun j => v.extractLsb' (n - 8 - 8 * j) 8

/-- The bit string `b[0], b[1], …` left-aligned in 256 bits: `E[255-p] = b[p]` and zeros below
(44_entropy_source.md R202). -/
def leftAligned : List Bool → BitVec 256
  | []      => 0
  | b :: bs => ((BitVec.ofBool b).setWidth 256 <<< 255) ||| (leftAligned bs >>> 1)

end Sys2Proof.Machine
end

