-- ==== Sys2Proof/Machine/Flags.lean ====
section
/-!
DEFINITION. Flag computations (10_state.md R26, R27, R40): the collection flags after one more character and the saturating count. The
block has no arithmetic condition codes (R40).
-/

namespace Sys2Proof.Machine

/-- `CNT` after one more character: `min(CNT + 1, 256)` (10_state.md R26). -/
def countAfter (n : Fin 257) : Fin 257 := ⟨min (n.val + 1) 256, by omega⟩

/-- `ALLBIN` after the character `c` (40_normalizer.md R121). -/
def allbinAfter (flag : Bool) (c : Char8) : Bool := flag && isbin c

/-- `ALLHEX` after the character `c` (40_normalizer.md R121). -/
def allhexAfter (flag : Bool) (c : Char8) : Bool := flag && ishex c

end Sys2Proof.Machine
end

