-- ==== Sys2Proof/Machine/Ops.lean ====
section
/-!
DEFINITION. Shared operations: the legality matrix and the illegal command (45_control.md R223, R224), the error sequence and the two ways out
of it (60_exceptions.md R250, R252), the port's responses (20_memory.md R69), and draws from the Bit Source
(44_entropy_source.md R203). There is no byte memory (log 12), so no memory operation stands here.
-/

namespace Sys2Proof.Machine

/-! ### Legality -/

/-- The legality matrix (45_control.md R224): may command `i` execute in this phase, with this `CNT`? -/
def legal (i : Instr) (p : Phase) (cnt : Fin 257) : Bool :=
  match i with
  | .nop     => true
  | .init    => p == .reset
  | .clear   => p == .text || p == .select || p == .rand || p == .done || p == .error
  | .putc _  => p == .text || p == .rand
  | .endText => p == .text || p == .rand
  | .sel _   => p == .select
  | .draw    => p == .rand && cnt == 0

/-- `CMDERR <- 1` and nothing else (45_control.md R223). -/
def Block.setCmderr (b : Block) : Block := { b with cmderr := true }

/-! ### The error sequence and its two exits -/

/-- The phase an error kind leads to (30_encoding.md R98, 60_exceptions.md R250). -/
def ErrKind.phase : ErrKind → Phase
  | .wordlistMissing      => .fatal
  | .wordlistMalformed    => .fatal
  | .insufficientEntropy  => .error
  | .invalidHexLength     => .error
  | .invalidInputFormat   => .error
  | .invalidWidthSelector => .error
  | .wordlistCorrupt      => .fatal

/-- Collection state as in a phase that collects nothing (10_state.md R41 (b)). -/
def Block.wipeCollection (b : Block) : Block :=
  { b with cnt := 0, allbin := true, allhex := true, binbuf := 0, hexbuf := 0 }

/-- Result state as in a phase that holds no result (10_state.md R41 (a)). -/
def Block.wipeResults (b : Block) : Block :=
  { b with ent := 0, dig := 0, cs := 0, full := 0, idx := Vector.replicate 24 0, src := .noSource }

/-- `raise e`: the error sequence (60_exceptions.md R250). Nothing is saved; `CMDERR`, `WSEL` and the `WL*` elements
stay. -/
def Block.raise (e : ErrKind) (b : Block) : Block :=
  { b.wipeResults.wipeCollection with
    width := .bits128, wvalid := false, err := some e, phase := e.phase }

/-- The way out of ERROR, and CLEAR's whole effect (45_control.md R222, 60_exceptions.md R252). `CMDERR` and the `WL*`
elements stay. -/
def Block.openRun (b : Block) : Block :=
  { b.wipeResults.wipeCollection with
    width := .bits128, wvalid := false, err := none, wsel := 0, phase := .text }

/-- The way out of FATAL, and of any phase: hardware reset (70_reset_and_hazards.md R280). The environment is not
reset by it (log 6). -/
def State.hardReset (s : State) : State :=
  { s with blk := Block.reset, herr := false, rdata := none }

/-! ### Acting on the block, answering the Host -/

/-- The state with another block. -/
def State.withBlk (s : State) (b : Block) : State := { s with blk := b }

/-- The response of an access the port accepts: `herr` = 0 (20_memory.md R69) and the data of a read. -/
def State.respond (s : State) (data : Option Word32) : State := { s with herr := false, rdata := data }

/-- A refused access (20_memory.md R69): `CMDERR <- 1`, `herr` = 1, and 0 for a refused read. -/
def State.refuseAccess (s : State) (data : Option Word32) : State :=
  { s with blk := s.blk.setCmderr, herr := true, rdata := data }

/-- Run the effect `f` of command `i` where it is legal, else the illegal command of 45_control.md R223. -/
def whenLegal (i : Instr) (f : Block → Block) (s : State) : Host.Outcome State Fault Refusal :=
  if legal i s.blk.phase s.blk.cnt then .next (s.withBlk (f s.blk))
  else .next (s.withBlk s.blk.setCmderr)

/-! ### The Bit Source -/

/-- One request and its answer, `BitDraw()` (44_entropy_source.md R203): the next fixed answer, else a free value if
the source is live, else no answer ever. -/
def BitSource.answer (src : BitSource) : Option (Bool × BitSource) :=
  match src.queue with
  | b :: q => some (b, { src with queue := q, requests := src.requests + 1 })
  | []     =>
    if src.live then some (Config.bitDraw src.requests, { src with requests := src.requests + 1 }) else none

/-- `n` requests one after another, the answers in order (44_entropy_source.md R202); `none` if one gets no answer. -/
def drawBits : Nat → BitSource → Option (List Bool × BitSource)
  | 0, src => some ([], src)
  | n + 1, src =>
    match src.answer with
    | none => none
    | some (b, src') =>
      match drawBits n src' with
      | none => none
      | some (bs, src'') => some (b :: bs, src'')

end Sys2Proof.Machine
end

