-- ==== Sys2Proof/Machine/Control.lean ====
section
/-!
DEFINITION. Control commands NOP, INIT, CLEAR (45_control.md R220 to R222).
-/

namespace Sys2Proof.Machine

/-- NOP (45_control.md R220): no state element changes. -/
def execNop (s : State) : Host.Outcome State Fault Refusal := whenLegal .nop (fun b => b) s

/-- INIT latches what the provider reports (45_control.md R221). -/
def Block.latchProvider (p : ProviderPort) (b : Block) : Block :=
  { b with wllen := p.len, wlmissing := p.missing, wlmalformed := p.malformed, wlchecked := true }

/-- INIT's effect in RESET (45_control.md R221): missing is tested before malformed; the latched values stay when an
error is raised. -/
def Block.initialise (p : ProviderPort) (b : Block) : Block :=
  if p.missing then (b.latchProvider p).raise .wordlistMissing
  else if p.malformed then (b.latchProvider p).raise .wordlistMalformed
  else { b.latchProvider p with phase := .text }

/-- INIT (45_control.md R221). -/
def execInit (s : State) : Host.Outcome State Fault Refusal :=
  whenLegal .init (Block.initialise s.provider) s

/-- CLEAR (45_control.md R222). -/
def execClear (s : State) : Host.Outcome State Fault Refusal := whenLegal .clear Block.openRun s

end Sys2Proof.Machine
end

