-- ==== Sys2Proof/Machine/Sha256.lean ====
section
/-!
DEFINITION. The hash of this hardware, SHA-256 for messages of 16 or 32 bytes (41_checksum.md R142, R145 to R148), the instance of the
parameter `HASH256` of 00_scope.md R7. The spec marks these rules as general knowledge, not D0's (log 8).
-/

namespace Sys2Proof.Machine

/-! ### Round functions (41_checksum.md R146, R147) -/

/-- `s0(x)` (R146). -/
def shaSmall0 (x : Word32) : Word32 := x.rotateRight 7 ^^^ x.rotateRight 18 ^^^ (x >>> 3)

/-- `s1(x)` (R146). -/
def shaSmall1 (x : Word32) : Word32 := x.rotateRight 17 ^^^ x.rotateRight 19 ^^^ (x >>> 10)

/-- `S0(x)` (R147). -/
def shaBig0 (x : Word32) : Word32 := x.rotateRight 2 ^^^ x.rotateRight 13 ^^^ x.rotateRight 22

/-- `S1(x)` (R147). -/
def shaBig1 (x : Word32) : Word32 := x.rotateRight 6 ^^^ x.rotateRight 11 ^^^ x.rotateRight 25

/-- `Ch(x,y,z)` (R147). -/
def shaCh (x y z : Word32) : Word32 := (x &&& y) ^^^ (~~~x &&& z)

/-- `Maj(x,y,z)` (R147). -/
def shaMaj (x y z : Word32) : Word32 := (x &&& y) ^^^ (x &&& z) ^^^ (y &&& z)

/-! ### Constants (41_checksum.md R148) -/

/-- The eight working variables `a` to `h`, and a digest as eight words. -/
structure ShaVars where
  a : Word32
  b : Word32
  c : Word32
  d : Word32
  e : Word32
  f : Word32
  g : Word32
  h : Word32
  deriving DecidableEq, Repr

/-- `H0[0..7]` (R148). -/
def shaH0 : ShaVars :=
  { a := 0x6a09e667, b := 0xbb67ae85, c := 0x3c6ef372, d := 0xa54ff53a
    e := 0x510e527f, f := 0x9b05688c, g := 0x1f83d9ab, h := 0x5be0cd19 }

/-- `K[0..63]` (R148). -/
def shaK : List Word32 :=
  [0x428a2f98, 0x71374491, 0xb5c0fbcf, 0xe9b5dba5, 0x3956c25b, 0x59f111f1, 0x923f82a4, 0xab1c5ed5] ++
  [0xd807aa98, 0x12835b01, 0x243185be, 0x550c7dc3, 0x72be5d74, 0x80deb1fe, 0x9bdc06a7, 0xc19bf174] ++
  [0xe49b69c1, 0xefbe4786, 0x0fc19dc6, 0x240ca1cc, 0x2de92c6f, 0x4a7484aa, 0x5cb0a9dc, 0x76f988da] ++
  [0x983e5152, 0xa831c66d, 0xb00327c8, 0xbf597fc7, 0xc6e00bf3, 0xd5a79147, 0x06ca6351, 0x14292967] ++
  [0x27b70a85, 0x2e1b2138, 0x4d2c6dfc, 0x53380d13, 0x650a7354, 0x766a0abb, 0x81c2c92e, 0x92722c85] ++
  [0xa2bfe8a1, 0xa81a664b, 0xc24b8b70, 0xc76c51a3, 0xd192e819, 0xd6990624, 0xf40e3585, 0x106aa070] ++
  [0x19a4c116, 0x1e376c08, 0x2748774c, 0x34b0bcb5, 0x391c0cb3, 0x4ed8aa4a, 0x5b9cca4f, 0x682e6ff3] ++
  [0x748f82ee, 0x78a5636f, 0x84c87814, 0x8cc70208, 0x90befffa, 0xa4506ceb, 0xbef9a3f7, 0xc67178f2]

/-! ### Padding, schedule, compression -/

/-- The 64-byte block of a message of at most 55 bytes (R145): the message, 0x80, zeros, and its length in bits as
eight big-endian bytes. -/
def shaPad (msg : List Byte) : List Byte :=
  msg ++ [0x80] ++ List.replicate (55 - msg.length) 0 ++
    (List.range 8).map fun i => BitVec.ofNat 8 (8 * msg.length / 2 ^ (56 - 8 * i))

/-- A list of bytes as 32-bit big-endian words (R145). -/
def shaWords : List Byte → List Word32
  | b0 :: b1 :: b2 :: b3 :: rest => (b0 ++ b1 ++ b2 ++ b3) :: shaWords rest
  | _ => []

/-- `Wd[t]` from the words before it, newest first (R146): `s1(Wd[t-2]) + Wd[t-7] + s0(Wd[t-15]) + Wd[t-16]`. -/
def shaNextWord (newestFirst : List Word32) : Word32 :=
  shaSmall1 (newestFirst.getD 1 0) + newestFirst.getD 6 0 +
    shaSmall0 (newestFirst.getD 14 0) + newestFirst.getD 15 0

/-- `n` more words of the schedule, newest first (R146). -/
def shaExtend : Nat → List Word32 → List Word32
  | 0, ws => ws
  | n + 1, ws => shaExtend n (shaNextWord ws :: ws)

/-- `Wd[0..63]` from `Wd[0..15]` (R146). -/
def shaSchedule (block : List Word32) : List Word32 := (shaExtend 48 block.reverse).reverse

/-- One round (R147), with `K[t]` and `Wd[t]`. -/
def shaRound (v : ShaVars) (kw : Word32 × Word32) : ShaVars :=
  let t1 := v.h + shaBig1 v.e + shaCh v.e v.f v.g + kw.1 + kw.2
  let t2 := shaBig0 v.a + shaMaj v.a v.b v.c
  { a := t1 + t2, b := v.a, c := v.b, d := v.c, e := v.d + t1, f := v.e, g := v.f, h := v.g }

/-- The working variables after the 64 rounds (R147). -/
def shaRounds (block : List Word32) : ShaVars :=
  (shaK.zip (shaSchedule block)).foldl shaRound shaH0

/-- SHA-256 of a message of 16 or 32 bytes (R145 to R148): digest word `i` is `H0[i]` plus the working variable. -/
def sha256 (msg : List Byte) : BitVec 256 :=
  let v := shaRounds (shaWords (shaPad msg))
  (shaH0.a + v.a) ++ (shaH0.b + v.b) ++ (shaH0.c + v.c) ++ (shaH0.d + v.d) ++
    (shaH0.e + v.e) ++ (shaH0.f + v.f) ++ (shaH0.g + v.g) ++ (shaH0.h + v.h)

/-- `HASH256` of this hardware (41_checksum.md R142, D16): SHA-256. -/
def hash256 (msg : List Byte) : BitVec 256 := sha256 msg

end Sys2Proof.Machine
end

