-- ==== Sys2Proof/Machine/Checksum.lean ====
section
/-!
DEFINITION. The checksum bit-slicer and hash wrapper (41_checksum.md R140 to R144): a pure function, no failure, no state (R144). The hash is
an argument, as 00_scope.md R7 has it; the machine passes `hash256`.
-/

namespace Sys2Proof.Machine

/-- The hash parameter of 00_scope.md R7: a byte sequence to 256 bits. -/
abbrev HashFun := List Byte → BitVec 256

/-- The leading 4 or 8 bits of the digest, right-aligned in 8 bits (41_checksum.md R141). -/
def leadingBits (w : Width) (d : BitVec 256) : BitVec 8 :=
  (d.extractLsb' (256 - w.checksumBits) w.checksumBits).setWidth 8

/-- `Checksum(W, E)` (41_checksum.md R141): the hash is over exactly the 16 or 32 entropy bytes. -/
def checksum (hash : HashFun) (w : Width) (e : BitVec 256) : BitVec 256 × BitVec 8 :=
  let d := hash (bytesOf (entropyOf w e))
  (d, leadingBits w d)

/-- D0's other description of the slice (41_checksum.md R143): the hexadecimal rendering of the digest as its 64
digits, high nibble of byte 0 first. -/
def hexRendering (d : BitVec 256) : List (BitVec 4) :=
  (List.range 64).map fun j => d.extractLsb' (252 - 4 * j) 4

end Sys2Proof.Machine
end

