-- ==== Sys2Proof/Machine/Encoder.lean ====
section
/-!
DEFINITION. Concatenator, 11-bit-to-word-index mapper, and the pipeline with its commit (42_encoder.md R160 to R171).
-/

namespace Sys2Proof.Machine

/-- `Concat(W, E, C)` (42_encoder.md R161): entropy first, checksum last, left-aligned in 264 bits. -/
def concat (w : Width) (e : BitVec 256) (c : BitVec 8) : BitVec 264 :=
  match w with
  | .bits128 => e.extractLsb' 128 128 ++ c.extractLsb' 0 4 ++ 0#132
  | .bits256 => e ++ c

/-- `G[k] = FULL[263-11k : 253-11k]` (42_encoder.md R162, R164). -/
def group (full : BitVec 264) (k : Nat) : BitVec 11 := full.extractLsb' (253 - 11 * k) 11

/-- The 24 groups, zero from `word_count` on (42_encoder.md R169). -/
def groups (w : Width) (full : BitVec 264) : Vector (BitVec 11) 24 :=
  Vector.ofFn fun k => if k.val < w.wordCount then group full k.val else 0

/-- The range check (42_encoder.md R165): no group below `word_count` reaches `WLLEN`. Ascending order and the first
failure cannot be observed. -/
def inRange (w : Width) (full : BitVec 264) (wllen : BitVec 12) : Bool :=
  (List.range w.wordCount).all fun k => decide ((group full k).toNat < wllen.toNat)

/-- `Encode(W, E, C)` (42_encoder.md R169): FullBitstream and the groups, or WordlistCorrupt. -/
def encodeStage (w : Width) (e : BitVec 256) (c : BitVec 8) (wllen : BitVec 12) :
    Except ErrKind (BitVec 264 × Vector (BitVec 11) 24) :=
  let full := concat w e c
  if inRange w full wllen then .ok (full, groups w full) else .error .wordlistCorrupt

/-- What the three stages hand to the commit. -/
structure Results where
  width : Width
  ent : BitVec 256
  dig : BitVec 256
  cs : BitVec 8
  full : BitVec 264
  idx : Vector (BitVec 11) 24
  src : Src
  deriving DecidableEq, Repr

/-- `Commit` (42_encoder.md R171): results in, collection state wiped, DONE. `ERR`, `CMDERR`, `WSEL` and the `WL*`
elements stay. -/
def Block.commit (r : Results) (b : Block) : Block :=
  { b.wipeCollection with
    ent := r.ent, dig := r.dig, cs := r.cs, full := r.full, idx := r.idx
    width := r.width, wvalid := true, src := r.src, phase := .done }

/-- `Pipeline(W, E, src)` (42_encoder.md R170), for any hash: checksum, encode, then commit or the error sequence. -/
def Block.pipeline (hash : HashFun) (w : Width) (e : BitVec 256) (src : Src) (b : Block) : Block :=
  let dc := checksum hash w e
  match encodeStage w e dc.2 b.wllen with
  | .error k => b.raise k
  | .ok fg => b.commit { width := w, ent := e, dig := dc.1, cs := dc.2, full := fg.1, idx := fg.2, src := src }

end Sys2Proof.Machine
end

