-- ==== Sys2Proof/Machine/RandomPath.lean ====
section
/-!
DEFINITION. The random path: SEL, DRAW, and END's action in phase RAND (44_entropy_source.md R200 to R205). The pairing of the selector
characters with the widths and the order of the drawn bits are the spec's own decisions (D13, D14).
-/

namespace Sys2Proof.Machine

/-- The width a selector character chooses (44_entropy_source.md R201). -/
def selectedWidth (c : Char8) : Option Width :=
  if c = 0x30 then some .bits128 else if c = 0x31 then some .bits256 else none

/-- SEL's effect in SELECT (44_entropy_source.md R201). -/
def Block.select (c : Char8) (b : Block) : Block :=
  match selectedWidth c with
  | some w => { b with width := w, wvalid := true, phase := .rand }
  | none   => b.raise .invalidWidthSelector

/-- SEL c (44_entropy_source.md R201). -/
def execSel (c : Char8) (s : State) : Host.Outcome State Fault Refusal :=
  whenLegal (.sel c) (Block.select c) s

/-- END's effect in RAND, the manual override (44_entropy_source.md R204): format before length, minimum N, the first
N bits taken. -/
def Block.endInRand (hash : HashFun) (b : Block) : Block :=
  if b.allbin = false then b.raise .invalidInputFormat
  else if b.cnt.val < b.width.entropyBits then b.raise .insufficientEntropy
  else b.pipeline hash b.width (firstBits b.width b.binbuf) .manual

/-- DRAW (44_entropy_source.md R202): exactly N draws, the first bit the most significant, then the pipeline. A source
that never answers holds the command for ever (70_reset_and_hazards.md R287). -/
def execDraw (s : State) : Host.Outcome State Fault Refusal :=
  if legal .draw s.blk.phase s.blk.cnt then
    match drawBits s.blk.width.entropyBits s.bits with
    | none => .fault .bitSourceSilent
    | some (bs, src) =>
      .next { s with blk := s.blk.pipeline hash256 s.blk.width (leftAligned bs) .drawn, bits := src }
  else .next (s.withBlk s.blk.setCmderr)

end Sys2Proof.Machine
end

