-- ==== Sys2Proof/Machine/Normalizer.lean ====
section
/-!
DEFINITION. The entropy normalizer: PUTC and END (40_normalizer.md R120 to R128). PUTC only records; END decides, on the whole text, in the
order empty, binary, hex, neither.
-/

namespace Sys2Proof.Machine

/-! ### PUTC -/

/-- `BINBUF` after character `c` at position `n` (40_normalizer.md R121). -/
def binbufAfter (buf : BitVec 256) (n : Nat) (c : Char8) : BitVec 256 :=
  if n < 256 ∧ isbin c then writeSlice buf (255 - n) (binval c) else buf

/-- `HEXBUF` after character `c` at position `n` (40_normalizer.md R121). -/
def hexbufAfter (buf : BitVec 256) (n : Nat) (c : Char8) : BitVec 256 :=
  match hexval c with
  | some h => if n < 64 then writeSlice buf (252 - 4 * n) h else buf
  | none   => buf

/-- PUTC's effect (40_normalizer.md R121): all writes read the values from before. -/
def Block.putChar (c : Char8) (b : Block) : Block :=
  { b with
    binbuf := binbufAfter b.binbuf b.cnt.val c
    hexbuf := hexbufAfter b.hexbuf b.cnt.val c
    allbin := allbinAfter b.allbin c
    allhex := allhexAfter b.allhex c
    cnt := countAfter b.cnt }

/-- PUTC c (40_normalizer.md R121; the same in RAND, 44_entropy_source.md R205). -/
def execPutc (c : Char8) (s : State) : Host.Outcome State Fault Refusal :=
  whenLegal (.putc c) (Block.putChar c) s

/-! ### END -/

/-- `NormBinary()` (40_normalizer.md R124), with D0's asymmetric truncation. -/
def Block.normBinary (b : Block) : Except ErrKind (Width × BitVec 256) :=
  if b.cnt.val < 128 then .error .insufficientEntropy
  else if b.cnt.val < 256 then .ok (.bits128, firstBits .bits128 b.binbuf)
  else .ok (.bits256, firstBits .bits256 b.binbuf)

/-- `NormHex()` (40_normalizer.md R125). -/
def Block.normHex (b : Block) : Except ErrKind (Width × BitVec 256) :=
  if b.cnt.val = 32 then .ok (.bits128, firstBits .bits128 b.hexbuf)
  else if b.cnt.val = 64 then .ok (.bits256, firstBits .bits256 b.hexbuf)
  else .error .invalidHexLength

/-- The pipeline on a normalised entropy, or the error sequence (40_normalizer.md R123). -/
def Block.finish (hash : HashFun) (src : Src) (r : Except ErrKind (Width × BitVec 256)) (b : Block) : Block :=
  match r with
  | .error k    => b.raise k
  | .ok (w, e) => b.pipeline hash w e src

/-- END's effect in TEXT (40_normalizer.md R123, R126): the first test that holds decides. -/
def Block.endInText (hash : HashFun) (b : Block) : Block :=
  if b.cnt = 0 then { b with phase := .select }
  else if b.allbin then b.finish hash .binText b.normBinary
  else if b.allhex then b.finish hash .hexText b.normHex
  else b.raise .invalidInputFormat

/-- END's effect (40_normalizer.md R122): R123 in TEXT, 44_entropy_source.md R204 in RAND. -/
def Block.endEffect (hash : HashFun) (b : Block) : Block :=
  if b.phase = .rand then b.endInRand hash else b.endInText hash

/-- END (40_normalizer.md R122). -/
def execEndText (s : State) : Host.Outcome State Fault Refusal :=
  whenLegal .endText (Block.endEffect hash256) s

/-! ### The same function on a whole text (40_normalizer.md R128) -/

/-- The hexadecimal digits `h[0], h[1], …` left-aligned in 256 bits. -/
def leftAlignedHex : List (BitVec 4) → BitVec 256
  | []      => 0
  | h :: hs => (h.setWidth 256 <<< 252) ||| (leftAlignedHex hs >>> 4)

/-- What a text means (40_normalizer.md R128). -/
inductive TextMeaning where
  | defer
  | entropy (w : Width) (e : BitVec 256) (src : Src)
  | error (k : ErrKind)
  deriving DecidableEq, Repr

/-- The width and entropy of a text of binary characters that is long enough (40_normalizer.md R128). -/
def binaryMeaning (w : Width) (t : List Char8) : TextMeaning :=
  .entropy w (leftAligned ((t.take w.entropyBits).map (· == 0x31))) .binText

/-- `NormText(t)` (40_normalizer.md R128), on a text of any length. -/
def normText (t : List Char8) : TextMeaning :=
  if t.length = 0 then .defer
  else if t.all isbin then
    if t.length < 128 then .error .insufficientEntropy
    else binaryMeaning (if t.length < 256 then .bits128 else .bits256) t
  else if t.all ishex then
    if t.length = 32 then .entropy .bits128 (leftAlignedHex (t.filterMap hexval)) .hexText
    else if t.length = 64 then .entropy .bits256 (leftAlignedHex (t.filterMap hexval)) .hexText
    else .error .invalidHexLength
  else .error .invalidInputFormat

end Sys2Proof.Machine
end

