-- ==== Sys2Proof/Machine/Dispatch.lean ====
section
/-!
DEFINITION. One arm per command (30_encoding.md R92).
-/

namespace Sys2Proof.Machine

def exec (i : Instr) (s : State) : Host.Outcome State Fault Refusal :=
  match i with
  | .nop => Sys2Proof.Machine.execNop s
  | .init => Sys2Proof.Machine.execInit s
  | .clear => Sys2Proof.Machine.execClear s
  | .putc c => Sys2Proof.Machine.execPutc c s
  | .endText => Sys2Proof.Machine.execEndText s
  | .sel c => Sys2Proof.Machine.execSel c s
  | .draw => Sys2Proof.Machine.execDraw s

end Sys2Proof.Machine
end

