-- ==== Sys2Proof/Machine/RegMap.lean ====
section
/-!
DEFINITION. The register map of the host register space (20_memory.md R62): names, byte offsets, access rights, and which accesses are refused
(R68, R69).
-/

namespace Sys2Proof.Machine

/-- The registers of 20_memory.md R62. -/
inductive Reg where
  | id
  | cmd
  | status
  | err
  | wlstat
  | cnt
  | wsel
  | geom
  | ent (w : Fin 8)
  | dig (w : Fin 8)
  | cs
  | last
  | full (w : Fin 9)
  | idx (k : Fin 24)
  deriving DecidableEq, Repr

/-- Read-only, write-only, read/write (20_memory.md R62). -/
inductive Access where
  | ro | wo | rw
  deriving DecidableEq, Repr

/-- Which way a host transaction goes (20_memory.md R61). -/
inductive Dir where
  | read | write
  deriving DecidableEq, Repr

/-- The byte offset of a register (20_memory.md R62). `FULL8` at 0x0A0 is the ninth word of `FULL`. -/
def Reg.offset : Reg → Addr
  | .id     => 0x000
  | .cmd    => 0x004
  | .status => 0x008
  | .err    => 0x00C
  | .wlstat => 0x010
  | .cnt    => 0x014
  | .wsel   => 0x018
  | .geom   => 0x01C
  | .ent w  => BitVec.ofNat 12 (0x020 + 4 * w.val)
  | .dig w  => BitVec.ofNat 12 (0x040 + 4 * w.val)
  | .cs     => 0x060
  | .last   => 0x064
  | .full w => BitVec.ofNat 12 (0x080 + 4 * w.val)
  | .idx k  => BitVec.ofNat 12 (0x100 + 4 * k.val)

/-- The access rights of a register (20_memory.md R62). -/
def Reg.access : Reg → Access
  | .cmd  => .wo
  | .wsel => .rw
  | _     => .ro

/-- The register at a byte address: `none` if the address is misaligned or unmapped (20_memory.md R62, R69). -/
def Reg.ofAddr (a : Addr) : Option Reg :=
  let n := a.toNat
  if n % 4 ≠ 0 then none
  else if n < 0x020 then
    match n / 4 with
    | 0 => some .id
    | 1 => some .cmd
    | 2 => some .status
    | 3 => some .err
    | 4 => some .wlstat
    | 5 => some .cnt
    | 6 => some .wsel
    | _ => some .geom
  else if n < 0x040 then some (.ent (Fin.ofNat 8 ((n - 0x020) / 4)))
  else if n < 0x060 then some (.dig (Fin.ofNat 8 ((n - 0x040) / 4)))
  else if n = 0x060 then some .cs
  else if n = 0x064 then some .last
  else if n < 0x080 then none
  else if n < 0x0A4 then some (.full (Fin.ofNat 9 ((n - 0x080) / 4)))
  else if n < 0x100 then none
  else if n < 0x160 then some (.idx (Fin.ofNat 24 ((n - 0x100) / 4)))
  else none

/-- Is the access refused (20_memory.md R69): misaligned, unmapped, a write to a read-only register, or a read of
`CMD`? -/
def refuses (d : Dir) (a : Addr) : Bool :=
  match Reg.ofAddr a with
  | none   => true
  | some r => (d == .write && r.access == .ro) || (d == .read && r.access == .wo)

end Sys2Proof.Machine
end

