-- ==== Sys2Proof/Machine/Readout.lean ====
section
/-!
DEFINITION. What the Host can see: register values (43_readout.md R181 to R192, layouts of 20_memory.md R63, R64), the outputs (10_state.md R44,
43_readout.md R189), and the views EntropyValue and Mnemonic (R182, R190). `WL` and `Word` are arguments of the views
(00_scope.md R7, log 7).
-/

namespace Sys2Proof.Machine

/-! ### Fields -/

/-- A field of a 32-bit register: `v` at bits `lo` and up, the other bits 0 (20_memory.md R63). -/
def field {k : Nat} (lo : Nat) (v : BitVec k) : Word32 := v.setWidth 32 <<< lo

/-- One bit of a register. -/
def flag (lo : Nat) (b : Bool) : Word32 := field lo (BitVec.ofBool b)

/-- `IDX[k]`; the block has 24 of them. -/
def Block.index (b : Block) (k : Nat) : BitVec 11 := if h : k < 24 then b.idx[k] else 0

/-- The 1-based index, in 12 bits, never wrapping (42_encoder.md R166). -/
def oneBased (i : BitVec 11) : BitVec 12 := i.setWidth 12 + 1

/-- `VALID`, 1-based and 0-based index in the layout of `IDXk` and `LAST` (20_memory.md R63). -/
def indexWord (i : BitVec 11) : Word32 := flag 31 true ||| field 16 (oneBased i) ||| field 0 i

/-! ### Register values -/

/-- The constant of `ID` (20_memory.md R63). -/
def idConstant : Word32 := 0x42503339

/-- `STATUS` (20_memory.md R63). -/
def statusWord (b : Block) : Word32 :=
  field 0 b.phase.code ||| field 3 b.width.code ||| flag 4 b.wvalid ||| flag 5 b.cmderr ||| field 8 b.src.code

/-- `WLSTAT` (20_memory.md R63). -/
def wlstatWord (b : Block) : Word32 :=
  field 0 b.wllen ||| flag 16 b.wlmissing ||| flag 17 b.wlmalformed ||| flag 31 b.wlchecked

/-- `GEOM` (20_memory.md R63, 43_readout.md R188). -/
def geomWord (b : Block) : Word32 :=
  if b.phase = .done then
    field 0 (BitVec.ofNat 5 b.width.wordCount) ||| field 8 (BitVec.ofNat 4 b.width.checksumBits) |||
      field 16 (BitVec.ofNat 9 b.width.totalBits) ||| field 26 (BitVec.ofNat 6 b.width.byteLength)
  else 0

/-- `LAST` (43_readout.md R187). -/
def lastWord (b : Block) : Word32 :=
  if b.phase = .done then indexWord (b.index (b.width.wordCount - 1)) else 0

/-- `IDXk` (43_readout.md R186). -/
def idxWord (b : Block) (k : Nat) : Word32 :=
  if b.phase = .done ∧ k < b.width.wordCount then indexWord (b.index k) else 0

/-- The value a read returns (43_readout.md R181 to R191). `CMD` is write-only: its read is refused before this
(20_memory.md R69). -/
def readValue (b : Block) : Reg → Word32
  | .id     => idConstant
  | .cmd    => 0
  | .status => statusWord b
  | .err    => field 0 (errCode b.err)
  | .wlstat => wlstatWord b
  | .cnt    => field 0 (BitVec.ofNat 9 b.cnt.val)
  | .wsel   => field 0 b.wsel
  | .geom   => geomWord b
  | .ent w  => b.ent.extractLsb' (224 - 32 * w.val) 32
  | .dig w  => b.dig.extractLsb' (224 - 32 * w.val) 32
  | .cs     => field 0 b.cs
  | .last   => lastWord b
  | .full w => if w.val < 8 then b.full.extractLsb' (232 - 32 * w.val) 32 else b.full.extractLsb' 0 8 ++ 0#24
  | .idx k  => idxWord b k.val

/-! ### Outputs -/

/-- `done` (10_state.md R44). -/
def Block.doneOut (b : Block) : Bool := b.phase == .done

/-- `error` (10_state.md R44). -/
def Block.errorOut (b : Block) : Bool := b.phase == .error || b.phase == .fatal

/-- `wl_en` (43_readout.md R189). -/
def Block.wlEn (b : Block) : Bool := b.phase == .done && decide (b.wsel.toNat < b.width.wordCount)

/-- `wl_addr` (43_readout.md R189). -/
def Block.wlAddr (b : Block) : BitVec 11 := if b.wlEn then b.index b.wsel.toNat else 0

/-- `wl_data`, the provider's answer to `wl_addr`, routed to the Host unchanged (20_memory.md R66, 43_readout.md R189):
present while `wl_en` = 1. -/
def Block.wlData {W : Type} (wl : BitVec 11 → W) (b : Block) : Option W :=
  if b.wlEn then some (wl b.wlAddr) else none

/-- The block's outputs between two transactions (70_reset_and_hazards.md R281). -/
structure Outputs where
  done : Bool
  error : Bool
  wlEn : Bool
  wlAddr : BitVec 11
  rbReq : Bool
  herr : Bool
  deriving DecidableEq, Repr

/-- The outputs in a state. `rb_req` is 1 only inside DRAW (44_entropy_source.md R203), so it is 0 between transactions
(log 10). -/
def State.outputs (s : State) : Outputs :=
  { done := s.blk.doneOut, error := s.blk.errorOut, wlEn := s.blk.wlEn, wlAddr := s.blk.wlAddr
    rbReq := false, herr := s.herr }

/-! ### Views -/

/-- `EntropyValue` (43_readout.md R182): the N entropy bits as an unsigned number. -/
def Block.entropyValue (b : Block) : Nat := (entropyOf b.width b.ent).toNat

/-- The index sequence of a finished run, in stream order (10_state.md R34). -/
def Block.indices (b : Block) : List (BitVec 11) := (List.range b.width.wordCount).map b.index

/-- `Mnemonic` (43_readout.md R190), defined only in DONE: the words at the indices, looked up by position
(42_encoder.md R168). -/
def Block.mnemonic {W : Type} (wl : BitVec 11 → W) (b : Block) : Option (List W) :=
  if b.phase = .done then some (b.indices.map wl) else none

end Sys2Proof.Machine
end

