-- ==== Sys2Proof/Machine/HostPort.lean ====
section
/-!
DEFINITION. What each event does: host transactions (20_memory.md R61, R69, R70), hardware reset (70_reset_and_hazards.md R280), a change of
the provider's outputs (R282, 93_implementation_defined.md U4). Each is one atomic step (R61, R71).
-/

namespace Sys2Proof.Machine

/-- A word written to `CMD`: decode it and execute it, or the illegal command (30_encoding.md R94, 45_control.md R223).
The phase part of R94 is inside the command's meaning. -/
def runCommand (v : Word32) (s : State) : Host.Outcome State Fault Refusal :=
  match decode v with
  | .illegal _ => .next (s.withBlk s.blk.setCmderr)
  | .command i => exec i s

/-- The write of `WSEL`: bits 31:5 of the data are ignored (20_memory.md R63, 43_readout.md R189). -/
def Block.writeWsel (v : Word32) (b : Block) : Block := { b with wsel := v.extractLsb' 0 5 }

/-- `MemWrite(addr, 4, v)`: refused, a command, or the write of `WSEL` (20_memory.md R62, R69). -/
def memWrite (a : Addr) (v : Word32) (s : State) : Host.Outcome State Fault Refusal :=
  if refuses .write a then .next (s.refuseAccess none)
  else if a = Reg.offset .cmd then runCommand v (s.respond none)
  else .next ((s.respond none).withBlk (s.blk.writeWsel v))

/-- `MemRead(addr, 4)`: a refused read returns 0, any other the register's value and no change (20_memory.md R69,
R70). -/
def memRead (a : Addr) (s : State) : Host.Outcome State Fault Refusal :=
  match Reg.ofAddr a with
  | none => .next (s.refuseAccess (some 0))
  | some r =>
    if refuses .read a then .next (s.refuseAccess (some 0)) else .next (s.respond (some (readValue s.blk r)))

/-- The provider's outputs become `p`; the block reads them only while it executes INIT and uses its latched copies
afterwards (20_memory.md R66, 93_implementation_defined.md U4). Free before INIT (70_reset_and_hazards.md R282); a
change after it breaks the provider's contract (R73, log 6). -/
def providerEvent (p : ProviderPort) (s : State) : Host.Outcome State Fault Refusal := .next { s with provider := p }

/-- One event. -/
def runEvent (e : Event) (s : State) : Host.Outcome State Fault Refusal :=
  match e with
  | .write a v   => memWrite a v s
  | .read a      => memRead a s
  | .hardReset   => .next s.hardReset
  | .provider p  => providerEvent p s

/-- The state with the first pending event taken off. -/
def State.accept (s : State) (rest : List Event) : State := { s with pending := rest }

/-- The next event, or waiting: the block takes no step by itself (00_scope.md R17, log 2). -/
def runNext (s : State) : Host.Outcome State Fault Refusal :=
  match s.pending with
  | []        => .next s
  | e :: rest => runEvent e (s.accept rest)

/-- The host write of a command word given as the host numbers it. -/
def commandEvent (nbits w : Nat) : Event := .write (Reg.offset .cmd) (BitVec.ofNat 32 (w % 2 ^ nbits))

end Sys2Proof.Machine
end

