-- ==== Sys2Proof/Machine/Step.lean ====
section
/-!
DEFINITION. One step: one host transaction or one reset (70_reset_and_hazards.md R287), taken from `State.pending`.
-/

namespace Sys2Proof.Machine

/-- One step of the machine. -/
def step (s : State) : Host.Outcome State Fault Refusal := runNext s

/-- `s` with the host's write of this command word to `CMD` as its very next event: that is where a command comes from
(10_state.md R39, log 2). -/
def State.withFetchWord (s : State) (nbits w : Nat) : State :=
  { s with pending := commandEvent nbits w :: s.pending }

end Sys2Proof.Machine
end

