-- ==== Sys2Proof/Safety.lean ====
section
/-!
DEFINITION. What claims are stated in: the invariants of 10_state.md R41, the named premises of 70_reset_and_hazards.md R283, and a run without
illegal commands or refused accesses (45_control.md R223, 20_memory.md R69).
-/

namespace Sys2Proof.Machine

/-- The results of a finished run belong together: 10_state.md R41 (f), with the unused bits of R30 and R34 and the
digest of R31. -/
structure Block.ResultsAgree (b : Block) : Prop where
  /-- the bits of `ENT` below the N entropy bits are 0 (R30) -/
  aligned : firstBits b.width b.ent = b.ent
  /-- the digest is the hash of the entropy bytes (R31, 41_checksum.md R141) -/
  digest : b.dig = hash256 (bytesOf (entropyOf b.width b.ent))
  /-- the first N bits of `FULL` are the entropy, the next the checksum, the rest 0 -/
  full : b.full = concat b.width b.ent b.cs
  /-- the checksum is the leading bits of the digest -/
  checksum : b.cs = leadingBits b.width b.dig
  /-- each index is its group of `FULL` -/
  groups : ∀ k : Fin 24, b.idx[k] = if k.val < b.width.wordCount then group b.full k.val else 0
  /-- no index reaches `WLLEN` -/
  range : ∀ k : Fin 24, k.val < b.width.wordCount → (b.idx[k]).toNat < b.wllen.toNat

/-- The invariants (a) to (g) of 10_state.md R41, what R27 to R29 say of the collection state in every state, and R23's
"non-zero exactly while DONE" for `SRC` (the other half is in (a)). (d) is stated through `ErrKind.phase`: `ERR` holds a kind exactly in ERROR and FATAL, and the kind leads to that phase. -/
structure Block.Inv (b : Block) : Prop where
  noResult : b.phase ≠ .done →
    b.ent = 0 ∧ b.dig = 0 ∧ b.cs = 0 ∧ b.full = 0 ∧ b.idx = Vector.replicate 24 0 ∧ b.src = .noSource
  noText : b.phase ≠ .text → b.phase ≠ .rand →
    b.cnt = 0 ∧ b.allbin = true ∧ b.allhex = true ∧ b.binbuf = 0 ∧ b.hexbuf = 0
  /-- both flags are 1 when `CNT` = 0 (R27) -/
  noCharacter : b.cnt = 0 → b.allbin = true ∧ b.allhex = true
  /-- `ALLBIN` = 1 implies `ALLHEX` = 1 (R27) -/
  binIsHex : b.allbin = true → b.allhex = true
  /-- bits of `BINBUF` past the text are 0 (R28) -/
  binTail : ∀ p < 256, b.cnt.val ≤ p → b.binbuf.getMsbD p = false
  /-- bits of `HEXBUF` past the text are 0 (R29) -/
  hexTail : ∀ p < 256, 4 * b.cnt.val ≤ p → b.hexbuf.getMsbD p = false
  widthKnown : b.wvalid = true ↔ (b.phase = .rand ∨ b.phase = .done)
  widthUnknown : b.wvalid = false → b.width = .bits128
  errorPhase : b.err.map ErrKind.phase = if b.phase = .error ∨ b.phase = .fatal then some b.phase else none
  checked : b.wlchecked = false ↔ b.phase = .reset
  unchecked : b.wlchecked = false → b.wllen = 0 ∧ b.wlmissing = false ∧ b.wlmalformed = false
  results : b.phase = .done → b.ResultsAgree
  /-- a finished run has a source (R23) -/
  sourceKnown : b.phase = .done → b.src ≠ .noSource
  goodVerdict : b.phase ≠ .reset → b.phase ≠ .fatal → b.wlmissing = false ∧ b.wlmalformed = false

/-- A provider that keeps its contract (70_reset_and_hazards.md R283 (b), 00_scope.md R7). -/
def ProviderPort.Good (p : ProviderPort) : Prop := p.missing = false ∧ p.malformed = false ∧ p.len = 2048

/-- The provider still reports what INIT latched: the constancy premise of 20_memory.md R66, R73 and
93_implementation_defined.md U4, for a claim that wants to exclude a provider that breaks its contract (log 6). -/
def State.ProviderKept (s : State) : Prop :=
  s.blk.wlchecked = true →
    s.provider = { missing := s.blk.wlmissing, malformed := s.blk.wlmalformed, len := s.blk.wllen }

/-- The wordlist precondition of 2048 distinct entries (70_reset_and_hazards.md R283 (b), U3). -/
def DistinctWords {W : Type} (wl : BitVec 11 → W) : Prop := Function.Injective wl

/-- No command or access has been refused since reset: the premise a claim takes that wants to say nothing about runs
with illegal commands or refused accesses (45_control.md R223, 20_memory.md R69, log 3, log 4). -/
def State.Unrefused (s : State) : Prop := s.blk.cmderr = false

/-- The Bit Source answers `n` requests (70_reset_and_hazards.md R287, the liveness assumption). -/
def BitSource.Answers (src : BitSource) (n : Nat) : Prop := src.live = true ∨ n ≤ src.queue.length

end Sys2Proof.Machine
end

