-- ==== Sys2Proof/Certificates/Slice0/Obligations.lean ====
section
/-!
DEFINITION. The statements for the provers. The block has no byte memory (log 12), so a frame here says that the whole rest of the state, written
as a record update, is unchanged. Every equation `exec i s = .next …` whose right side is a record update of `s` is
both the instruction's result, its frame and its completion.
-/

open Sys2Proof Sys2Proof.Machine

/-! ### The spec's tables and pseudocode, written out for the statements -/

namespace Sys2Proof.Claims

/-- 10_state.md R43's table. -/
def resetBlock : Block :=
  { phase := .reset, width := .bits128, wvalid := false, cmderr := false, src := .noSource, err := none
    cnt := 0, allbin := true, allhex := true, binbuf := 0, hexbuf := 0, ent := 0, dig := 0, cs := 0, full := 0
    idx := Vector.replicate 24 0, wsel := 0, wllen := 0, wlmissing := false, wlmalformed := false
    wlchecked := false }

/-- The three kinds that lead to FATAL (60_exceptions.md R250). -/
def leadsToFatal (e : ErrKind) : Bool :=
  e == .wordlistMissing || e == .wordlistMalformed || e == .wordlistCorrupt

/-- `ErrorEntry(E)` of 60_exceptions.md R250, every write of it. -/
def errorEntry (e : ErrKind) (b : Block) : Block :=
  { b with
    ent := 0, dig := 0, cs := 0, full := 0, idx := Vector.replicate 24 0, src := .noSource
    cnt := 0, allbin := true, allhex := true, binbuf := 0, hexbuf := 0
    width := .bits128, wvalid := false, err := some e
    phase := if leadsToFatal e then .fatal else .error }

/-- The rows of 45_control.md R224's matrix: the phases a command is legal in. -/
def legalIn : Instr → List Phase
  | .nop     => [.reset, .text, .select, .rand, .done, .error, .fatal]
  | .init    => [.reset]
  | .clear   => [.text, .select, .rand, .done, .error]
  | .putc _  => [.text, .rand]
  | .endText => [.text, .rand]
  | .sel _   => [.select]
  | .draw    => [.rand]

/-- 45_control.md R224, with DRAW's condition on `CNT`. -/
def executes (i : Instr) (p : Phase) (cnt : Fin 257) : Prop := p ∈ legalIn i ∧ (i = .draw → cnt = 0)

/-- The command `op` and `arg` name by 30_encoding.md R92. -/
def commandOf (op : Nat) (arg : BitVec 8) : Option Instr :=
  match op with
  | 0 => some .nop
  | 1 => some .init
  | 2 => some .clear
  | 3 => some (.putc arg)
  | 4 => some .endText
  | 5 => some (.sel arg)
  | 6 => some .draw
  | _ => none

/-- 30_encoding.md R94: the word is that of command `i`, whatever the phase. -/
def wordNames (v : Word32) (i : Instr) : Prop :=
  v.extractLsb 31 16 = 0 ∧ v.extractLsb 11 8 = 0 ∧
    commandOf (v.extractLsb 15 12).toNat (v.extractLsb 7 0) = some i ∧
    ((v.extractLsb 15 12).toNat ∈ [0, 1, 2, 4, 6] → v.extractLsb 7 0 = 0)

/-- The state with one event taken off and the response of an accepted access. -/
def accepted (s : State) (rest : List Event) (data : Option Word32) : State :=
  { s with pending := rest, herr := false, rdata := data }

/-- The state with `CMDERR <- 1` and nothing else (45_control.md R223). -/
def withCmderr (s : State) : State := { s with blk := { s.blk with cmderr := true } }

/-- The digest of the entropy `e` of width `w` (41_checksum.md R141). -/
def digestOf (w : Width) (e : BitVec 256) : BitVec 256 := hash256 (bytesOf (entropyOf w e))

/-- FullBitstream of the entropy `e` of width `w` (42_encoder.md R161, 41_checksum.md R141). -/
def fullOf (w : Width) (e : BitVec 256) : BitVec 264 := concat w e (leadingBits w (digestOf w e))

/-- Every index of the entropy lies below `WLLEN` (42_encoder.md R165). -/
def fits (w : Width) (e : BitVec 256) (n : BitVec 12) : Prop :=
  ∀ k < w.wordCount, (group (fullOf w e) k).toNat < n.toNat

/-- `Commit` of 42_encoder.md R171 with the results of R170, every write of it. -/
def committed (w : Width) (e : BitVec 256) (src : Src) (b : Block) : Block :=
  { b with
    ent := e, dig := digestOf w e, cs := leadingBits w (digestOf w e), full := fullOf w e
    idx := groups w (fullOf w e), width := w, wvalid := true, src := src
    cnt := 0, allbin := true, allhex := true, binbuf := 0, hexbuf := 0, phase := .done }

/-- The command `i` runs the pipeline (42_encoder.md R170): it commits if every index is in range, else it raises
WordlistCorrupt. -/
def runsPipeline (i : Instr) (s : State) (w : Width) (e : BitVec 256) (src : Src) : Prop :=
  (fits w e s.blk.wllen → exec i s = .next { s with blk := committed w e src s.blk }) ∧
  (¬ fits w e s.blk.wllen → exec i s = .next { s with blk := errorEntry .wordlistCorrupt s.blk })

/-- The first `n` bits of a 256-bit value, zeros below. -/
def firstN (n : Nat) (v : BitVec 256) : BitVec 256 := (v >>> (256 - n)) <<< (256 - n)

/-- PUTC of every character of a text, in order (30_encoding.md R102, `puts`). -/
def putAll : List Char8 → State → Host.Outcome State Fault Refusal
  | [], s => .next s
  | c :: cs, s =>
    match exec (.putc c) s with
    | .next t    => putAll cs t
    | .fault r   => .fault r
    | .refused r => .refused r

/-- The Bit Source's answer to its `p`-th next request (44_entropy_source.md R203, log 5): one fixed in advance, else
a free value. -/
def answerAt (src : BitSource) (p : Nat) : Bool :=
  if p < src.queue.length then src.queue.getD p false
  else Config.bitDraw (src.requests + p)

/-- The source after `n` answers: those fixed in advance are used up first (log 5). -/
def afterDraws (src : BitSource) (n : Nat) : BitSource :=
  { src with queue := src.queue.drop n, requests := src.requests + n }

/-- The command a step executes, if its event is the write of one to `CMD`. -/
def runsCommand (s : State) (i : Instr) : Prop :=
  ∃ v rest, s.pending = .write 0x004 v :: rest ∧ decode v = .command i

/-- The rows of 45_control.md R225 that a command makes, with the phase and error it leaves. -/
def transition (i : Instr) (p q : Phase) (e : Option ErrKind) : Prop :=
  match i with
  | .nop     => False
  | .init    => p = .reset ∧ (q = .text ∨ q = .fatal ∧ (e = some .wordlistMissing ∨ e = some .wordlistMalformed))
  | .clear   => p ∈ [Phase.text, .select, .rand, .done, .error] ∧ q = .text
  | .putc _  => False
  | .endText =>
    (p = .text ∧ (q = .select ∨ q = .done ∨
      q = .error ∧ e ∈ [some .insufficientEntropy, some .invalidHexLength, some .invalidInputFormat] ∨
      q = .fatal ∧ e = some .wordlistCorrupt)) ∨
    (p = .rand ∧ (q = .done ∨ q = .error ∧ e ∈ [some .invalidInputFormat, some .insufficientEntropy] ∨
      q = .fatal ∧ e = some .wordlistCorrupt))
  | .sel c   => p = .select ∧ ((c = 0x30 ∨ c = 0x31) ∧ q = .rand ∨
      c ≠ 0x30 ∧ c ≠ 0x31 ∧ q = .error ∧ e = some .invalidWidthSelector)
  | .draw    => p = .rand ∧ (q = .done ∨ q = .fatal ∧ e = some .wordlistCorrupt)

/-- Which command raises which error, in which phase (60_exceptions.md R240's columns "raised by" and "when"). -/
def raisedBy (e : ErrKind) (i : Instr) (s : State) : Prop :=
  match e with
  | .wordlistMissing      => i = .init ∧ s.provider.missing = true
  | .wordlistMalformed    => i = .init ∧ s.provider.missing = false ∧ s.provider.malformed = true
  | .insufficientEntropy  => i = .endText ∧ s.blk.allbin = true ∧
      (s.blk.phase = .text ∧ s.blk.cnt.val < 128 ∨ s.blk.phase = .rand ∧ s.blk.cnt.val < s.blk.width.entropyBits)
  | .invalidHexLength     => i = .endText ∧ s.blk.phase = .text ∧ s.blk.allhex = true ∧
      s.blk.cnt.val ≠ 32 ∧ s.blk.cnt.val ≠ 64
  | .invalidInputFormat   => i = .endText ∧ s.blk.allbin = false ∧
      (s.blk.phase = .text ∧ s.blk.allhex = false ∨ s.blk.phase = .rand)
  | .invalidWidthSelector => ∃ c, i = .sel c ∧ c ≠ 0x30 ∧ c ≠ 0x31
  | .wordlistCorrupt      => (i = .endText ∨ i = .draw) ∧ s.blk.wllen.toNat < 2048

/-- The number of a phase in `STATUS` (10_state.md R21). -/
def phaseNumber : Phase → Nat
  | .reset => 0 | .text => 1 | .select => 2 | .rand => 3 | .done => 4 | .error => 5 | .fatal => 6

/-- The number of a source in `STATUS` (10_state.md R23). -/
def srcNumber : Src → Nat
  | .noSource => 0 | .binText => 1 | .hexText => 2 | .manual => 3 | .drawn => 4

/-- The code of an error kind (30_encoding.md R98). -/
def errNumber : Option ErrKind → Nat
  | none => 0
  | some .wordlistMissing => 1
  | some .wordlistMalformed => 2
  | some .insufficientEntropy => 3
  | some .invalidHexLength => 4
  | some .invalidInputFormat => 5
  | some .invalidWidthSelector => 6
  | some .wordlistCorrupt => 7

/-- The access `d` at `a` is one that 20_memory.md R69 refuses, by R62's map: misaligned, unmapped, a write anywhere
but `CMD` and `WSEL`, or a read of `CMD`. -/
def refusedR69 (d : Dir) (a : Addr) : Prop :=
  a.toNat % 4 ≠ 0 ∨ (0x068 ≤ a.toNat ∧ a.toNat < 0x080) ∨ (0x0A4 ≤ a.toNat ∧ a.toNat < 0x100) ∨ 0x160 ≤ a.toNat ∨
    (d = .write ∧ a ≠ 0x004 ∧ a ≠ 0x018) ∨ (d = .read ∧ a = 0x004)

/-- Two states that agree on everything but the hidden state of 10_state.md R42. -/
def sameButHidden (s t : State) : Prop :=
  t = { s with blk := { s.blk with
          allbin := t.blk.allbin, allhex := t.blk.allhex, binbuf := t.blk.binbuf, hexbuf := t.blk.hexbuf } }

/-- Two states that agree on everything but the provider's outputs. -/
def sameButProvider (s t : State) : Prop := t = { s with provider := t.provider }

/-- The bits of an 11-bit index, most significant first. -/
def indexBits (g : BitVec 11) : List Bool := (List.range 11).map g.getMsbD

/-- The four hex digits `IDXk` and `LAST` show for an index: VALID, the 1-based index, the index (20_memory.md R63). -/
def indexWordNumber (i : BitVec 11) : Nat := 2 ^ 31 + (i.toNat + 1) * 2 ^ 16 + i.toNat

end Sys2Proof.Claims

open Sys2Proof.Claims

/-! ### Encoding -/

/-- Every command decodes from its own word, and from that word alone: no bit of an encoding is dropped and none is
ignored (30_encoding.md R90 to R94). -/
def Obligations.CommandWordsRoundTrip : Prop :=
  (∀ i, decode (encode i) = .command i) ∧ (∀ v i, decode v = .command i → v = encode i)

/-- The words the decoder takes are those of 30_encoding.md R94's pseudocode, and the command is the one R92 names. -/
def Obligations.DecodeFollowsFieldTests : Prop :=
  ∀ v i, decode v = .command i ↔ wordNames v i

/-- 45_control.md R223 with the decoding of 30_encoding.md R94: a write to `CMD` that names no command, or one illegal in
this phase, sets `CMDERR` and does nothing else. What the port answers is not said here (log 11). -/
def Obligations.IllegalCommandOnlySetsCmderr : Prop :=
  ∀ s v rest, s.pending = .write 0x004 v :: rest →
    (¬ ∃ i, wordNames v i ∧ executes i s.blk.phase s.blk.cnt) →
    ∃ t, step s = .next t ∧ t = { withCmderr s with pending := rest, herr := t.herr, rdata := t.rdata }

/-- A command outside its phases (45_control.md R224) only sets `CMDERR`. -/
def Obligations.CommandOutsideItsPhasesOnlySetsCmderr : Prop :=
  ∀ i s, ¬ executes i s.blk.phase s.blk.cnt → exec i s = .next (withCmderr s)

/-- A step runs the decoded command, in the state with the event taken off and the write answered (`herr` = 0 by
20_memory.md R69; that a write returns no data is the model's choice, log 11). -/
def Obligations.StepRunsDecodedCommand : Prop :=
  ∀ s v rest i, s.pending = .write 0x004 v :: rest → decode v = .command i →
    step s = exec i (accepted s rest none)

/-- Words written out from 30_encoding.md R92's column "encoding of v". -/
def Obligations.SampleWordsDecode : Prop :=
  decode 0x00000000 = .command .nop ∧ decode 0x00001000 = .command .init ∧ decode 0x00002000 = .command .clear ∧
  decode 0x00003066 = .command (.putc 0x66) ∧ decode 0x00004000 = .command .endText ∧
  decode 0x00005031 = .command (.sel 0x31) ∧ decode 0x00006000 = .command .draw

/-! ### Reset and waiting -/

/-- 10_state.md R43: every element of the block after reset. -/
def Obligations.ResetStateValues : Prop := State.reset.blk = resetBlock

/-- 70_reset_and_hazards.md R281: the outputs after reset (`rb_req` by log 10); and 10_state.md R44: in every state
`done` and `error` mirror `PHASE`. -/
def Obligations.ResetOutputs : Prop :=
  State.reset.outputs = { done := false, error := false, wlEn := false, wlAddr := 0, rbReq := false, herr := false } ∧
  ∀ s : State, (s.outputs.done = true ↔ s.blk.phase = .done) ∧
    (s.outputs.error = true ↔ s.blk.phase = .error ∨ s.blk.phase = .fatal)

/-- 70_reset_and_hazards.md R280: one reset step maps any state to the reset state of the block; the error response is 0
after it (R281). -/
def Obligations.HardResetFromAnyState : Prop :=
  ∀ s rest, s.pending = .hardReset :: rest →
    ∃ t, step s = .next t ∧ t.blk = resetBlock ∧ t.herr = false ∧ t.pending = rest

/-- With nothing pending the machine waits (log 2, the model's choice). -/
def Obligations.WaitsWithNothingPending : Prop := ∀ s, s.pending = [] → step s = .next s

/-! ### Control commands -/

/-- 45_control.md R220: the word 0 is NOP, the words 0x01 to 0xFF are none, and NOP changes nothing in any phase. -/
def Obligations.NopLeavesEverything : Prop :=
  decode 0x00000000 = .command .nop ∧ (∀ n : BitVec 8, n ≠ 0 → ∀ i, decode (n.setWidth 32) ≠ .command i) ∧
    ∀ s, exec .nop s = .next s

/-- 45_control.md R221: INIT's word, its three outcomes in RESET, and its illegality elsewhere. -/
def Obligations.InitTakesTheProvidersVerdict : Prop :=
  decode 0x00001000 = .command .init ∧
  ∀ s, (s.blk.phase = .reset →
    (s.provider.missing = false → s.provider.malformed = false →
      exec .init s = .next { s with blk := { s.blk with
        wllen := s.provider.len, wlmissing := false, wlmalformed := false, wlchecked := true, phase := .text } }) ∧
    (s.provider.missing = true →
      exec .init s = .next { s with blk := { errorEntry .wordlistMissing s.blk with
        wllen := s.provider.len, wlmissing := true, wlmalformed := s.provider.malformed, wlchecked := true } }) ∧
    (s.provider.missing = false → s.provider.malformed = true →
      exec .init s = .next { s with blk := { errorEntry .wordlistMalformed s.blk with
        wllen := s.provider.len, wlmissing := false, wlmalformed := true, wlchecked := true } })) ∧
  (s.blk.phase ≠ .reset → exec .init s = .next (withCmderr s))

/-- 45_control.md R222: CLEAR's word, its effect, and the two phases it is illegal in. -/
def Obligations.ClearOpensFreshRun : Prop :=
  decode 0x00002000 = .command .clear ∧
  ∀ s, (s.blk.phase ≠ .reset → s.blk.phase ≠ .fatal →
    exec .clear s = .next { s with blk := { s.blk with
      ent := 0, dig := 0, cs := 0, full := 0, idx := Vector.replicate 24 0, src := .noSource
      cnt := 0, allbin := true, allhex := true, binbuf := 0, hexbuf := 0
      width := .bits128, wvalid := false, err := none, wsel := 0, phase := .text } }) ∧
  (s.blk.phase = .reset ∨ s.blk.phase = .fatal → exec .clear s = .next (withCmderr s))

/-! ### Collection: PUTC -/

/-- 30_encoding.md R97: `hexval`, `isbin`, `binval` on every code. -/
def Obligations.CharacterClasses : Prop :=
  ∀ c : Char8,
    (0x30 ≤ c.toNat ∧ c.toNat ≤ 0x39 → (hexval c).map BitVec.toNat = some (c.toNat - 0x30)) ∧
    (0x41 ≤ c.toNat ∧ c.toNat ≤ 0x46 → (hexval c).map BitVec.toNat = some (c.toNat - 0x37)) ∧
    (0x61 ≤ c.toNat ∧ c.toNat ≤ 0x66 → (hexval c).map BitVec.toNat = some (c.toNat - 0x57)) ∧
    (¬ (0x30 ≤ c.toNat ∧ c.toNat ≤ 0x39) → ¬ (0x41 ≤ c.toNat ∧ c.toNat ≤ 0x46) →
      ¬ (0x61 ≤ c.toNat ∧ c.toNat ≤ 0x66) → hexval c = none) ∧
    (isbin c = true ↔ c = 0x30 ∨ c = 0x31) ∧ (binval c).getLsbD 0 = c.getLsbD 0 ∧
    (isbin c = true → (hexval c).map BitVec.toNat = some (binval c).toNat)

/-- 40_normalizer.md R121: PUTC's word, what it writes, bit by bit, that it writes nothing else, and where it is
illegal. -/
def Obligations.PutcRecordsOneCharacter : Prop :=
  ∀ c s, decode (0x00003000 + c.setWidth 32) = .command (.putc c) ∧
   (s.blk.phase ≠ .text → s.blk.phase ≠ .rand → exec (.putc c) s = .next (withCmderr s)) ∧
   (s.blk.phase = .text ∨ s.blk.phase = .rand →
    ∃ t, exec (.putc c) s = .next t ∧
      (∀ i < 256, t.blk.binbuf.getLsbD i =
        if s.blk.cnt.val < 256 ∧ (c = 0x30 ∨ c = 0x31) ∧ i = 255 - s.blk.cnt.val then c.getLsbD 0
        else s.blk.binbuf.getLsbD i) ∧
      (∀ i < 256, t.blk.hexbuf.getLsbD i =
        match hexval c with
        | some h =>
          if s.blk.cnt.val < 64 ∧ 252 - 4 * s.blk.cnt.val ≤ i ∧ i ≤ 255 - 4 * s.blk.cnt.val then
            h.getLsbD (i - (252 - 4 * s.blk.cnt.val))
          else s.blk.hexbuf.getLsbD i
        | none => s.blk.hexbuf.getLsbD i) ∧
      t.blk.allbin = (s.blk.allbin && decide (c = 0x30 ∨ c = 0x31)) ∧
      t.blk.allhex = (s.blk.allhex && (hexval c).isSome) ∧
      t.blk.cnt.val = min (s.blk.cnt.val + 1) 256 ∧
      t = { s with blk := { s.blk with
            binbuf := t.blk.binbuf, hexbuf := t.blk.hexbuf, allbin := t.blk.allbin
            allhex := t.blk.allhex, cnt := t.blk.cnt } })

/-- 10_state.md R26 to R29: what the collection state holds after any text, typed from an empty collection. -/
def Obligations.CollectionStateDescribesTheText : Prop :=
  ∀ (t : List Char8) (s : State), s.blk.phase = .text ∨ s.blk.phase = .rand →
    s.blk.cnt = 0 → s.blk.allbin = true → s.blk.allhex = true → s.blk.binbuf = 0 → s.blk.hexbuf = 0 →
    ∃ u, putAll t s = .next u ∧
      u.blk.cnt.val = min t.length 256 ∧
      (u.blk.allbin = true ↔ ∀ c ∈ t, c = 0x30 ∨ c = 0x31) ∧
      (u.blk.allhex = true ↔ ∀ c ∈ t, hexval c ≠ none) ∧
      (u.blk.allbin = true → ∀ p < 256, u.blk.binbuf.getMsbD p = (t.getD p 0x30).getLsbD 0) ∧
      (u.blk.allhex = true → ∀ p < 64, ∀ j < 4,
        u.blk.hexbuf.getMsbD (4 * p + j) = ((hexval (t.getD p 0x30)).getD 0).getMsbD j) ∧
      u = { s with blk := { s.blk with
            binbuf := u.blk.binbuf, hexbuf := u.blk.hexbuf, allbin := u.blk.allbin
            allhex := u.blk.allhex, cnt := u.blk.cnt } }

/-! ### Normalizer and random path: END, SEL, DRAW -/

/-- 40_normalizer.md R123 to R126: END in TEXT, every branch of the classification in its order. -/
def Obligations.EndInTextClassifies : Prop :=
  ∀ s, s.blk.phase = .text →
    (s.blk.cnt.val = 0 → exec .endText s = .next { s with blk := { s.blk with phase := .select } }) ∧
    (s.blk.cnt.val ≠ 0 → s.blk.allbin = true → s.blk.cnt.val < 128 →
      exec .endText s = .next { s with blk := errorEntry .insufficientEntropy s.blk }) ∧
    (s.blk.allbin = true → 128 ≤ s.blk.cnt.val → s.blk.cnt.val < 256 →
      runsPipeline .endText s .bits128 (firstN 128 s.blk.binbuf) .binText) ∧
    (s.blk.allbin = true → s.blk.cnt.val = 256 →
      runsPipeline .endText s .bits256 s.blk.binbuf .binText) ∧
    (s.blk.allbin = false → s.blk.allhex = true → s.blk.cnt.val = 32 →
      runsPipeline .endText s .bits128 (firstN 128 s.blk.hexbuf) .hexText) ∧
    (s.blk.allbin = false → s.blk.allhex = true → s.blk.cnt.val = 64 →
      runsPipeline .endText s .bits256 s.blk.hexbuf .hexText) ∧
    (s.blk.cnt.val ≠ 0 → s.blk.allbin = false → s.blk.allhex = true → s.blk.cnt.val ≠ 32 → s.blk.cnt.val ≠ 64 →
      exec .endText s = .next { s with blk := errorEntry .invalidHexLength s.blk }) ∧
    (s.blk.cnt.val ≠ 0 → s.blk.allbin = false → s.blk.allhex = false →
      exec .endText s = .next { s with blk := errorEntry .invalidInputFormat s.blk })

/-- A text long enough, with a provider of 2048 entries or more, ends in DONE: END's own effect, on the state alone
(40_normalizer.md R123 to R125, 42_encoder.md R165, R171). -/
def Obligations.EndOfGoodTextCommits : Prop :=
  ∀ s, s.blk.phase = .text → 2048 ≤ s.blk.wllen.toNat →
    (s.blk.allbin = true → 128 ≤ s.blk.cnt.val → s.blk.cnt.val < 256 →
      exec .endText s = .next { s with blk := committed .bits128 (firstN 128 s.blk.binbuf) .binText s.blk }) ∧
    (s.blk.allbin = true → s.blk.cnt.val = 256 →
      exec .endText s = .next { s with blk := committed .bits256 s.blk.binbuf .binText s.blk }) ∧
    (s.blk.allbin = false → s.blk.allhex = true → s.blk.cnt.val = 32 →
      exec .endText s = .next { s with blk := committed .bits128 (firstN 128 s.blk.hexbuf) .hexText s.blk }) ∧
    (s.blk.allbin = false → s.blk.allhex = true → s.blk.cnt.val = 64 →
      exec .endText s = .next { s with blk := committed .bits256 s.blk.hexbuf .hexText s.blk })

/-- 44_entropy_source.md R204: END's word, END in RAND, and where END is illegal. -/
def Obligations.EndInRandIsTheManualOverride : Prop :=
  decode 0x00004000 = .command .endText ∧
  (∀ s, s.blk.phase ≠ .text → s.blk.phase ≠ .rand → exec .endText s = .next (withCmderr s)) ∧
  ∀ s, s.blk.phase = .rand →
    (s.blk.allbin = false → exec .endText s = .next { s with blk := errorEntry .invalidInputFormat s.blk }) ∧
    (s.blk.allbin = true → s.blk.cnt.val < s.blk.width.entropyBits →
      exec .endText s = .next { s with blk := errorEntry .insufficientEntropy s.blk }) ∧
    (s.blk.allbin = true → s.blk.width = .bits128 → 128 ≤ s.blk.cnt.val →
      runsPipeline .endText s .bits128 (firstN 128 s.blk.binbuf) .manual) ∧
    (s.blk.allbin = true → s.blk.width = .bits256 → s.blk.cnt.val = 256 →
      runsPipeline .endText s .bits256 s.blk.binbuf .manual)

/-- 44_entropy_source.md R201: SEL's word, the two widths, every other character, and where SEL is illegal. -/
def Obligations.SelFixesTheWidth : Prop :=
  (∀ c : Char8, decode (0x00005000 + c.setWidth 32) = .command (.sel c)) ∧
  (∀ c s, s.blk.phase ≠ .select → exec (.sel c) s = .next (withCmderr s)) ∧
  ∀ s, s.blk.phase = .select →
    exec (.sel 0x30) s = .next { s with blk := { s.blk with width := .bits128, wvalid := true, phase := .rand } } ∧
    exec (.sel 0x31) s = .next { s with blk := { s.blk with width := .bits256, wvalid := true, phase := .rand } } ∧
    ∀ c, c ≠ 0x30 → c ≠ 0x31 →
      exec (.sel c) s = .next { s with blk := errorEntry .invalidWidthSelector s.blk }

/-- 44_entropy_source.md R202: with a wordlist of 2048 entries or more DRAW takes exactly N answers, the first the most
significant bit, and commits. The answers are free, and how the source holds them is the model's choice (log 5). -/
def Obligations.DrawCommitsTheDrawnBits : Prop :=
  ∀ s, s.blk.phase = .rand → s.blk.cnt = 0 → 2048 ≤ s.blk.wllen.toNat →
    s.bits.Answers s.blk.width.entropyBits →
    ∃ e : BitVec 256,
      (∀ p < 256, e.getMsbD p = (decide (p < s.blk.width.entropyBits) && answerAt s.bits p)) ∧
      exec .draw s = .next { s with
        blk := committed s.blk.width e .drawn s.blk, bits := afterDraws s.bits s.blk.width.entropyBits }

/-- 44_entropy_source.md R202 whatever the wordlist: DRAW's word; the N answers, first bit most significant, go into the
pipeline, which commits or raises WordlistCorrupt; outside RAND with `CNT` = 0 DRAW is an illegal command. How the
source's answers are held is the model's choice (log 5). -/
def Obligations.DrawRunsThePipeline : Prop :=
  decode 0x00006000 = .command .draw ∧
  ∀ s, (s.blk.phase = .rand → s.blk.cnt = 0 → s.bits.Answers s.blk.width.entropyBits →
    ∃ e : BitVec 256,
      (∀ p < 256, e.getMsbD p = (decide (p < s.blk.width.entropyBits) && answerAt s.bits p)) ∧
      (fits s.blk.width e s.blk.wllen →
        exec .draw s = .next { s with
          blk := committed s.blk.width e .drawn s.blk, bits := afterDraws s.bits s.blk.width.entropyBits }) ∧
      (¬ fits s.blk.width e s.blk.wllen →
        exec .draw s = .next { s with
          blk := errorEntry .wordlistCorrupt s.blk, bits := afterDraws s.bits s.blk.width.entropyBits })) ∧
  (s.blk.phase ≠ .rand ∨ s.blk.cnt ≠ 0 → exec .draw s = .next (withCmderr s))

/-- 70_reset_and_hazards.md R287, 93_implementation_defined.md U8: a source that does not answer holds DRAW for ever. -/
def Obligations.DrawHangsOnASilentSource : Prop :=
  ∀ s, s.blk.phase = .rand → s.blk.cnt = 0 → ¬ s.bits.Answers s.blk.width.entropyBits →
    exec .draw s = .fault .bitSourceSilent

/-- Nothing but a silent source under DRAW stops the machine (the form of the source: log 5), and no step is refused. -/
def Obligations.OnlyASilentSourceStops : Prop :=
  ∀ s, (∀ r, step s = .fault r → r = .bitSourceSilent ∧ runsCommand s .draw ∧
      ¬ s.bits.Answers s.blk.width.entropyBits) ∧
    (∀ r, step s ≠ .refused r)

/-- 40_normalizer.md R128: `puts t` and END from an empty TEXT phase is the function NormText of the whole text, of
any length. -/
def Obligations.TypedTextMeansNormText : Prop :=
  ∀ (t : List Char8) (s : State), s.blk.phase = .text →
    s.blk.cnt = 0 → s.blk.allbin = true → s.blk.allhex = true → s.blk.binbuf = 0 → s.blk.hexbuf = 0 →
    ∃ u, putAll t s = .next u ∧
      match normText t with
      | .defer => exec .endText u = .next { s with blk := { s.blk with phase := .select } }
      | .error k => exec .endText u = .next { s with blk := errorEntry k s.blk }
      | .entropy w e src =>
        (fits w e s.blk.wllen → exec .endText u = .next { s with blk := committed w e src s.blk }) ∧
        (¬ fits w e s.blk.wllen → exec .endText u = .next { s with blk := errorEntry .wordlistCorrupt s.blk })

/-! ### Checksum and encoder -/

/-- 41_checksum.md R141, for any hash: the message is exactly the N/8 entropy bytes, byte 0 first, and the checksum
is the digest's leading N/32 bits, right-aligned. -/
def Obligations.ChecksumIsTheLeadingDigestBits : Prop :=
  ∀ (hash : HashFun) (w : Width) (e : BitVec 256),
    ∃ msg : List Byte, msg.length = w.entropyBits / 8 ∧
      (∀ j < w.entropyBits / 8, ∀ i < 8, (msg.getD j 0).getMsbD i = e.getMsbD (8 * j + i)) ∧
      (checksum hash w e).1 = hash msg ∧
      (∀ i < 8, (checksum hash w e).2.getMsbD i =
        (decide (8 - w.entropyBits / 32 ≤ i) && (hash msg).getMsbD (i - (8 - w.entropyBits / 32))))

/-- 41_checksum.md R143: the checksum is the first hex digit, or the first two, of the digest's rendering. -/
def Obligations.ChecksumIsTheFirstHexDigits : Prop :=
  ∀ d : BitVec 256,
    ((hexRendering d).head?.map BitVec.toNat = some (leadingBits .bits128 d).toNat) ∧
    ((hexRendering d).take 2).foldl (fun n h => 16 * n + h.toNat) 0 = (leadingBits .bits256 d).toNat

/-- 41_checksum.md R149: the check values. -/
def Obligations.Sha256CheckValues : Prop :=
  hash256 (List.replicate 16 0x00) = 0x374708fff7719dd5979ec875d56cd2286f6d3cf7ec317a3b25632aab28ec37bb ∧
  hash256 (List.replicate 32 0x00) = 0x66687aadf862bd776c8fc18b8e9f8e20089714856ee233b3902a591d0d5f2925 ∧
  hash256 (List.replicate 16 0xff) = 0x5ac6a5945f16500911219129984ba8b387a06f24fe383ce4e81a73294065461b ∧
  hash256 (List.replicate 32 0xff) = 0xaf9613760f72635fbdb44a5a0a63c39f12af30f950a6ee5c971be188e89c4051

/-- 42_encoder.md R161: every bit of FullBitstream. -/
def Obligations.ConcatLayout : Prop :=
  ∀ (w : Width) (e : BitVec 256) (c : BitVec 8), ∀ p < 264,
    (concat w e c).getMsbD p =
      if p < w.entropyBits then e.getMsbD p
      else if p < w.totalBits then c.getMsbD (8 - w.checksumBits + (p - w.entropyBits))
      else false

/-- 42_encoder.md R162, R164: group `k` covers string positions 11k to 11k+10, most significant first; the rest of
the array is 0 (R169). -/
def Obligations.GroupsPartitionTheBitstream : Prop :=
  ∀ (w : Width) (full : BitVec 264) (k : Fin 24),
    (k.val < w.wordCount → ∀ j < 11, ((groups w full)[k]).getMsbD j = full.getMsbD (11 * k.val + j)) ∧
    (w.wordCount ≤ k.val → (groups w full)[k] = 0)

/-- 42_encoder.md R162, R163: 12 or 24 groups and nothing left over. -/
def Obligations.WordCountsAreExact : Prop :=
  Width.bits128.wordCount = 12 ∧ Width.bits256.wordCount = 24 ∧ ∀ w : Width, w.totalBits = 11 * w.wordCount

/-- 42_encoder.md R165, 93_implementation_defined.md U5, U14: with 2048 entries or more no step raises
WordlistCorrupt. -/
def Obligations.FullWordlistNeverCorrupt : Prop :=
  ∀ s t, step s = .next t → 2048 ≤ s.blk.wllen.toNat → s.blk.err ≠ some .wordlistCorrupt →
    t.blk.err ≠ some .wordlistCorrupt

/-- 42_encoder.md R172, reconstruction: in a finished run the indices written as 11-bit groups and joined are the
entropy bits followed by the checksum bits. -/
def Obligations.IndicesReconstructTheBitstream : Prop :=
  ∀ b : Block, b.Inv → b.phase = .done →
    b.indices.flatMap indexBits =
      (List.range b.width.entropyBits).map b.ent.getMsbD ++
      (List.range b.width.checksumBits).map fun j => b.cs.getMsbD (8 - b.width.checksumBits + j)

/-- With distinct words the Mnemonic determines the entropy and everything derived from it (42_encoder.md R172,
70_reset_and_hazards.md R283 (b)). -/
def Obligations.MnemonicDeterminesTheEntropy : Prop :=
  ∀ (W : Type) (wl : BitVec 11 → W) (b c : Block), DistinctWords wl → b.Inv → c.Inv →
    b.phase = .done → c.phase = .done → b.mnemonic wl = c.mnemonic wl →
    b.width = c.width ∧ b.ent = c.ent ∧ b.dig = c.dig ∧ b.cs = c.cs ∧ b.full = c.full ∧ b.idx = c.idx

/-! ### Errors -/

/-- 60_exceptions.md R250: a command that leaves an error where none was leaves exactly the error-entry state; the `WL*`
elements are those INIT latched from the provider if it was INIT, else those from before. -/
def Obligations.ErrorEntryLeavesNothingPartial : Prop :=
  ∀ i s t e, exec i s = .next t → s.blk.err = none → t.blk.err = some e →
    t.blk = { errorEntry e s.blk with
      wllen := t.blk.wllen, wlmissing := t.blk.wlmissing, wlmalformed := t.blk.wlmalformed
      wlchecked := t.blk.wlchecked } ∧
    (i = .init → t.blk.wllen = s.provider.len ∧ t.blk.wlmissing = s.provider.missing ∧
      t.blk.wlmalformed = s.provider.malformed ∧ t.blk.wlchecked = true) ∧
    (i ≠ .init → t.blk.wllen = s.blk.wllen ∧ t.blk.wlmissing = s.blk.wlmissing ∧
      t.blk.wlmalformed = s.blk.wlmalformed ∧ t.blk.wlchecked = s.blk.wlchecked)

/-- 60_exceptions.md R240: which command raises which kind, when, and the phase it leads to. -/
def Obligations.ErrorKindsAreRaisedAsListed : Prop :=
  ∀ i s t e, exec i s = .next t → s.blk.err = none → t.blk.err = some e →
    raisedBy e i s ∧ t.blk.phase = if leadsToFatal e then .fatal else .error

/-- 60_exceptions.md R253: a second error never replaces the first. -/
def Obligations.ErrorIsNeverOverwritten : Prop :=
  ∀ s t e, s.blk.Inv → step s = .next t → s.blk.err = some e → t.blk.err = some e ∨ t.blk.err = none

/-- 60_exceptions.md R252: ERROR is left by CLEAR and reset only, FATAL by reset only, the error code stays until then, and
every other command but NOP is an illegal command there. -/
def Obligations.ErrorIsLeftAsListed : Prop :=
  (∀ s t, step s = .next t → s.blk.phase = .fatal →
    (t.blk.phase = .fatal ∧ t.blk.err = s.blk.err) ∨ ∃ rest, s.pending = .hardReset :: rest) ∧
  (∀ s t, step s = .next t → s.blk.phase = .error →
    (t.blk.phase = .error ∧ t.blk.err = s.blk.err) ∨ (runsCommand s .clear ∧ t.blk.phase = .text ∧ t.blk.err = none) ∨
      ∃ rest, s.pending = .hardReset :: rest) ∧
  (∀ i s, s.blk.phase = .fatal → i ≠ .nop → exec i s = .next (withCmderr s)) ∧
  (∀ i s, s.blk.phase = .error → i ≠ .nop → i ≠ .clear → exec i s = .next (withCmderr s))

/-! ### Invariants and whole-machine rules -/

/-- 10_state.md R41 (with R23, R27 to R31, R34): every step keeps the invariants. -/
def Obligations.StepKeepsTheInvariants : Prop :=
  ∀ s t, s.blk.Inv → step s = .next t → t.blk.Inv

/-- The invariants hold at reset (10_state.md R43). -/
def Obligations.ResetMeetsTheInvariants : Prop := State.reset.blk.Inv

/-- 45_control.md R225: the complete table of phase transitions. -/
def Obligations.PhaseTransitionsAreThoseListed : Prop :=
  ∀ s t, step s = .next t →
    t.blk.phase = s.blk.phase ∨
    (t.blk.phase = .reset ∧ ∃ rest, s.pending = .hardReset :: rest) ∨
    ∃ i, runsCommand s i ∧ transition i s.blk.phase t.blk.phase t.blk.err

/-- 10_state.md R24: no rule clears `CMDERR` except hardware reset. -/
def Obligations.CmderrIsSticky : Prop :=
  ∀ s t, step s = .next t → s.blk.cmderr = true → t.blk.cmderr = true ∨ ∃ rest, s.pending = .hardReset :: rest

/-- 10_state.md R30, 20_memory.md R74: in DONE a step either keeps every result, or is CLEAR or a reset. -/
def Obligations.ResultsStayInDone : Prop :=
  ∀ s t, step s = .next t → s.blk.phase = .done →
    (t.blk.phase = .done ∧ t.blk.ent = s.blk.ent ∧ t.blk.dig = s.blk.dig ∧ t.blk.cs = s.blk.cs ∧
      t.blk.full = s.blk.full ∧ t.blk.idx = s.blk.idx ∧ t.blk.width = s.blk.width ∧ t.blk.src = s.blk.src) ∨
    runsCommand s .clear ∨ ∃ rest, s.pending = .hardReset :: rest

/-- 10_state.md R36: after INIT nothing but a reset writes the `WL*` elements. -/
def Obligations.WordlistStatusIsLatchedOnce : Prop :=
  ∀ s t, s.blk.Inv → step s = .next t → s.blk.wlchecked = true →
    (t.blk.wllen = s.blk.wllen ∧ t.blk.wlmissing = s.blk.wlmissing ∧ t.blk.wlmalformed = s.blk.wlmalformed ∧
      t.blk.wlchecked = true) ∨ ∃ rest, s.pending = .hardReset :: rest

/-- 10_state.md R35: `WSEL` changes only by its own write, by CLEAR and by reset. -/
def Obligations.WselChangesOnlyAsListed : Prop :=
  ∀ s t, step s = .next t →
    t.blk.wsel = s.blk.wsel ∨ (t.blk.wsel = 0 ∧ (runsCommand s .clear ∨ ∃ rest, s.pending = .hardReset :: rest)) ∨
    ∃ v rest, s.pending = .write 0x018 v :: rest ∧ t.blk.wsel = v.extractLsb 4 0

/-- 45_control.md R222, 60_exceptions.md R250: after CLEAR, or an error where none was, the block is the reset block
but for the phase, the error, `CMDERR`, `WSEL` and the `WL*` elements: nothing of the text, the entropy, the digest
or the indices is left. -/
def Obligations.NothingOfTheRunSurvives : Prop :=
  ∀ i s t, exec i s = .next t →
    (i = .clear ∧ s.blk.phase ≠ .reset ∧ s.blk.phase ≠ .fatal) ∨ (s.blk.err = none ∧ t.blk.err ≠ none) →
    t.blk = { resetBlock with
      phase := t.blk.phase, err := t.blk.err, cmderr := s.blk.cmderr
      wsel := if i = .clear then 0 else s.blk.wsel
      wllen := t.blk.wllen, wlmissing := t.blk.wlmissing, wlmalformed := t.blk.wlmalformed
      wlchecked := t.blk.wlchecked }

/-- 10_state.md R42: two states that differ only in the hidden state stay so, and answer the Host alike, under every
event but END. -/
def Obligations.HiddenStateShowsOnlyThroughEnd : Prop :=
  ∀ s₁ s₂, sameButHidden s₁ s₂ → ¬ runsCommand s₁ .endText →
    (∃ t₁ t₂, step s₁ = .next t₁ ∧ step s₂ = .next t₂ ∧ sameButHidden t₁ t₂) ∨
    (∃ r, step s₁ = .fault r ∧ step s₂ = .fault r)

/-- A command touches the block alone; the port's outputs and the environment stay, but for the Bit Source under
DRAW. -/
def Obligations.CommandsTouchTheBlockAlone : Prop :=
  ∀ i s t, exec i s = .next t →
    t.herr = s.herr ∧ t.rdata = s.rdata ∧ t.pending = s.pending ∧ t.provider = s.provider ∧
    (t.bits = s.bits ∨ i = .draw ∧ t.bits.live = s.bits.live ∧
      t.bits.requests = s.bits.requests + s.blk.width.entropyBits)

/-! ### The host port -/

/-- 20_memory.md R62: the map is one register per mapped address and one address per register. -/
def Obligations.RegisterMapIsOneToOne : Prop :=
  (∀ r a, Reg.ofAddr a = some r ↔ r.offset = a) ∧
  (∀ a, Reg.ofAddr a ≠ none ↔ a.toNat % 4 = 0 ∧
    (a.toNat < 0x068 ∨ (0x080 ≤ a.toNat ∧ a.toNat < 0x0A4) ∨ (0x100 ≤ a.toNat ∧ a.toNat < 0x160)))

/-- 20_memory.md R69: which accesses are refused, all a refused access does, and `herr` = 0 for every other; an accepted read
changes nothing but the answer (R70). That a refused WRITE answers `herr` = 1 is the model's choice (log 4, after U2 and
D9); that a write returns no data is its choice too (log 11) and not said here. -/
def Obligations.AccessesAreRefusedAsListed : Prop :=
  ∀ s rest a,
    (∀ v, s.pending = .write a v :: rest →
      (refusedR69 .write a →
        ∃ t, step s = .next t ∧ t = { withCmderr s with pending := rest, herr := true, rdata := t.rdata }) ∧
      (¬ refusedR69 .write a → ∀ t, step s = .next t → t.herr = false)) ∧
    (s.pending = .read a :: rest →
      (refusedR69 .read a →
        step s = .next { withCmderr s with pending := rest, herr := true, rdata := some 0 }) ∧
      (¬ refusedR69 .read a → ∃ v, step s = .next (accepted s rest (some v))))

/-- 43_readout.md R189: the write of `WSEL` and its read; the wordlist port as a function of state, its answer, and that the
block never asks the provider for an index it does not hold (10_state.md R41 (f)). -/
def Obligations.WselAndTheWordlistPort : Prop :=
  (∀ s rest,
    (∀ v, s.pending = .write 0x018 v :: rest →
      ∃ t, step s = .next t ∧
        t = { s with blk := { s.blk with wsel := v.extractLsb 4 0 }, pending := rest, herr := false, rdata := t.rdata }) ∧
    (s.pending = .read 0x018 :: rest → step s = .next (accepted s rest (some (s.blk.wsel.setWidth 32))))) ∧
  ∀ (W : Type) (wl : BitVec 11 → W) (b : Block),
    (b.wlEn = true ↔ b.phase = .done ∧ b.wsel.toNat < b.width.wordCount) ∧
    (b.wlEn = true → ∀ k : Fin 24, k.val = b.wsel.toNat → b.wlAddr = b.idx[k] ∧ b.wlData wl = some (wl b.idx[k])) ∧
    (b.wlEn = false → b.wlAddr = 0) ∧
    (b.Inv → b.wlEn = true → b.wlAddr.toNat < b.wllen.toNat)

/-- 20_memory.md R64, 43_readout.md R181, R183, R185: word `w` of a wide register holds its string positions 32w to
32w+31, most significant first; `FULL8` is left-aligned. -/
def Obligations.WideRegistersReadMostSignificantWordFirst : Prop :=
  ∀ (s : State) (rest : List Event),
    (∀ w < 8, s.pending = .read (BitVec.ofNat 12 (0x020 + 4 * w)) :: rest →
      ∃ v, step s = .next (accepted s rest (some v)) ∧ ∀ i < 32, v.getMsbD i = s.blk.ent.getMsbD (32 * w + i)) ∧
    (∀ w < 8, s.pending = .read (BitVec.ofNat 12 (0x040 + 4 * w)) :: rest →
      ∃ v, step s = .next (accepted s rest (some v)) ∧ ∀ i < 32, v.getMsbD i = s.blk.dig.getMsbD (32 * w + i)) ∧
    (∀ w < 8, s.pending = .read (BitVec.ofNat 12 (0x080 + 4 * w)) :: rest →
      ∃ v, step s = .next (accepted s rest (some v)) ∧ ∀ i < 32, v.getMsbD i = s.blk.full.getMsbD (32 * w + i)) ∧
    (s.pending = .read 0x0A0 :: rest →
      ∃ v, step s = .next (accepted s rest (some v)) ∧
        ∀ i < 32, v.getMsbD i = (decide (i < 8) && s.blk.full.getMsbD (256 + i)))

/-- 43_readout.md R186, R187, 42_encoder.md R166: `IDXk` and `LAST`, with the 1-based index, which never wraps. -/
def Obligations.IndexReads : Prop :=
  ∀ (s : State) (rest : List Event),
    (∀ k : Fin 24, s.pending = .read (BitVec.ofNat 12 (0x100 + 4 * k.val)) :: rest →
      ∃ v, step s = .next (accepted s rest (some v)) ∧
        (s.blk.phase = .done → k.val < s.blk.width.wordCount → v.toNat = indexWordNumber s.blk.idx[k]) ∧
        (s.blk.phase = .done → s.blk.width.wordCount ≤ k.val → v = 0) ∧
        (s.blk.phase ≠ .done → v = 0)) ∧
    (s.pending = .read 0x064 :: rest →
      ∃ v, step s = .next (accepted s rest (some v)) ∧
        (s.blk.phase = .done → s.blk.width = .bits128 → v.toNat = indexWordNumber s.blk.idx[11]) ∧
        (s.blk.phase = .done → s.blk.width = .bits256 → v.toNat = indexWordNumber s.blk.idx[23]) ∧
        (s.blk.phase ≠ .done → v = 0))

/-- 43_readout.md R184, R188: `CS`, and the only values of `GEOM`. -/
def Obligations.ChecksumAndGeometryReads : Prop :=
  ∀ (s : State) (rest : List Event),
    (s.pending = .read 0x060 :: rest → step s = .next (accepted s rest (some (s.blk.cs.setWidth 32)))) ∧
    (s.pending = .read 0x01C :: rest →
      step s = .next (accepted s rest (some
        (if s.blk.phase = .done then (if s.blk.width = .bits128 then 0x4084040C else 0x81080818) else 0))))

/-- 43_readout.md R191 with the layouts of 20_memory.md R63: `ID`, `STATUS`, `ERR`, `WLSTAT`, `CNT`. -/
def Obligations.StatusReads : Prop :=
  ∀ (s : State) (rest : List Event),
    (s.pending = .read 0x000 :: rest → step s = .next (accepted s rest (some 0x42503339))) ∧
    (s.pending = .read 0x008 :: rest →
      ∃ v, step s = .next (accepted s rest (some v)) ∧
        v.toNat = phaseNumber s.blk.phase + (if s.blk.width = .bits256 then 8 else 0) + 16 * s.blk.wvalid.toNat +
          32 * s.blk.cmderr.toNat + 256 * srcNumber s.blk.src) ∧
    (s.pending = .read 0x00C :: rest →
      ∃ v, step s = .next (accepted s rest (some v)) ∧ v.toNat = errNumber s.blk.err) ∧
    (s.pending = .read 0x010 :: rest →
      ∃ v, step s = .next (accepted s rest (some v)) ∧
        v.toNat = s.blk.wllen.toNat + 2 ^ 16 * s.blk.wlmissing.toNat + 2 ^ 17 * s.blk.wlmalformed.toNat +
          2 ^ 31 * s.blk.wlchecked.toNat) ∧
    (s.pending = .read 0x014 :: rest →
      ∃ v, step s = .next (accepted s rest (some v)) ∧ v.toNat = s.blk.cnt.val)

/-- 43_readout.md R192: outside DONE every result register and every view of one reads 0. -/
def Obligations.ResultsReadZeroOutsideDone : Prop :=
  ∀ s rest a, s.blk.Inv → s.blk.phase ≠ .done → s.pending = .read a :: rest → ¬ refusedR69 .read a →
    0x01C ≤ a.toNat → step s = .next (accepted s rest (some 0))

/-- 43_readout.md R190: the Mnemonic, defined only in DONE, and that the Host obtains it by selecting word 0, 1, … and taking
`wl_data` each time. -/
def Obligations.MnemonicIsReadThroughWsel : Prop :=
  ∀ (W : Type) (wl : BitVec 11 → W) (b : Block),
    (b.phase ≠ .done → b.mnemonic wl = none) ∧
    (b.phase = .done → ∃ m, b.mnemonic wl = some m ∧ m.length = b.width.wordCount ∧
      ∀ k : Fin 24, k.val < b.width.wordCount → m[k.val]? = some (wl b.idx[k]) ∧
        ({ b with wsel := BitVec.ofNat 5 k.val } : Block).wlData wl = some (wl b.idx[k]))

/-- A change of the provider's outputs changes nothing else (70_reset_and_hazards.md R282 before INIT; after INIT by log
6, the model's choice). -/
def Obligations.ProviderEventTouchesTheProviderAlone : Prop :=
  ∀ s rest p, s.pending = .provider p :: rest → step s = .next { s with pending := rest, provider := p }

/-- 20_memory.md R66: the block reads the provider's outputs only while executing INIT: two states that differ only in
them step alike under every event but INIT. -/
def Obligations.ProviderIsReadByInitOnly : Prop :=
  ∀ s₁ s₂, sameButProvider s₁ s₂ → ¬ runsCommand s₁ .init →
    (∃ t₁ t₂, step s₁ = .next t₁ ∧ step s₂ = .next t₂ ∧ sameButProvider t₁ t₂) ∨
    (∃ r, step s₁ = .fault r ∧ step s₂ = .fault r)

/-- 43_readout.md R182: the decimal item is the value of the first N bits of `ENT`. -/
def Obligations.EntropyValueIsTheBitsAsANumber : Prop :=
  ∀ b : Block, b.entropyValue = b.ent.toNat / 2 ^ (256 - b.width.entropyBits) ∧
    b.entropyValue < 2 ^ b.width.entropyBits
end

