-- ==== Sys2Proof/Laws/State.lean ====
section
/-!
SUPPORT. One lemma per field per update of the state records, true by rfl, so that no later proof unfolds a record update.
-/

namespace Sys2Proof.Machine

/-! ### `Block.setCmderr` -/

@[simp] theorem Block.setCmderr_phase (b : Block) : b.setCmderr.phase = b.phase := rfl
@[simp] theorem Block.setCmderr_width (b : Block) : b.setCmderr.width = b.width := rfl
@[simp] theorem Block.setCmderr_wvalid (b : Block) : b.setCmderr.wvalid = b.wvalid := rfl
@[simp] theorem Block.setCmderr_cmderr (b : Block) : b.setCmderr.cmderr = true := rfl
@[simp] theorem Block.setCmderr_src (b : Block) : b.setCmderr.src = b.src := rfl
@[simp] theorem Block.setCmderr_err (b : Block) : b.setCmderr.err = b.err := rfl
@[simp] theorem Block.setCmderr_cnt (b : Block) : b.setCmderr.cnt = b.cnt := rfl
@[simp] theorem Block.setCmderr_allbin (b : Block) : b.setCmderr.allbin = b.allbin := rfl
@[simp] theorem Block.setCmderr_allhex (b : Block) : b.setCmderr.allhex = b.allhex := rfl
@[simp] theorem Block.setCmderr_binbuf (b : Block) : b.setCmderr.binbuf = b.binbuf := rfl
@[simp] theorem Block.setCmderr_hexbuf (b : Block) : b.setCmderr.hexbuf = b.hexbuf := rfl
@[simp] theorem Block.setCmderr_ent (b : Block) : b.setCmderr.ent = b.ent := rfl
@[simp] theorem Block.setCmderr_dig (b : Block) : b.setCmderr.dig = b.dig := rfl
@[simp] theorem Block.setCmderr_cs (b : Block) : b.setCmderr.cs = b.cs := rfl
@[simp] theorem Block.setCmderr_full (b : Block) : b.setCmderr.full = b.full := rfl
@[simp] theorem Block.setCmderr_idx (b : Block) : b.setCmderr.idx = b.idx := rfl
@[simp] theorem Block.setCmderr_wsel (b : Block) : b.setCmderr.wsel = b.wsel := rfl
@[simp] theorem Block.setCmderr_wllen (b : Block) : b.setCmderr.wllen = b.wllen := rfl
@[simp] theorem Block.setCmderr_wlmissing (b : Block) : b.setCmderr.wlmissing = b.wlmissing := rfl
@[simp] theorem Block.setCmderr_wlmalformed (b : Block) : b.setCmderr.wlmalformed = b.wlmalformed := rfl
@[simp] theorem Block.setCmderr_wlchecked (b : Block) : b.setCmderr.wlchecked = b.wlchecked := rfl

/-! ### `Block.wipeCollection` -/

@[simp] theorem Block.wipeCollection_phase (b : Block) : b.wipeCollection.phase = b.phase := rfl
@[simp] theorem Block.wipeCollection_width (b : Block) : b.wipeCollection.width = b.width := rfl
@[simp] theorem Block.wipeCollection_wvalid (b : Block) : b.wipeCollection.wvalid = b.wvalid := rfl
@[simp] theorem Block.wipeCollection_cmderr (b : Block) : b.wipeCollection.cmderr = b.cmderr := rfl
@[simp] theorem Block.wipeCollection_src (b : Block) : b.wipeCollection.src = b.src := rfl
@[simp] theorem Block.wipeCollection_err (b : Block) : b.wipeCollection.err = b.err := rfl
@[simp] theorem Block.wipeCollection_cnt (b : Block) : b.wipeCollection.cnt = 0 := rfl
@[simp] theorem Block.wipeCollection_allbin (b : Block) : b.wipeCollection.allbin = true := rfl
@[simp] theorem Block.wipeCollection_allhex (b : Block) : b.wipeCollection.allhex = true := rfl
@[simp] theorem Block.wipeCollection_binbuf (b : Block) : b.wipeCollection.binbuf = 0 := rfl
@[simp] theorem Block.wipeCollection_hexbuf (b : Block) : b.wipeCollection.hexbuf = 0 := rfl
@[simp] theorem Block.wipeCollection_ent (b : Block) : b.wipeCollection.ent = b.ent := rfl
@[simp] theorem Block.wipeCollection_dig (b : Block) : b.wipeCollection.dig = b.dig := rfl
@[simp] theorem Block.wipeCollection_cs (b : Block) : b.wipeCollection.cs = b.cs := rfl
@[simp] theorem Block.wipeCollection_full (b : Block) : b.wipeCollection.full = b.full := rfl
@[simp] theorem Block.wipeCollection_idx (b : Block) : b.wipeCollection.idx = b.idx := rfl
@[simp] theorem Block.wipeCollection_wsel (b : Block) : b.wipeCollection.wsel = b.wsel := rfl
@[simp] theorem Block.wipeCollection_wllen (b : Block) : b.wipeCollection.wllen = b.wllen := rfl
@[simp] theorem Block.wipeCollection_wlmissing (b : Block) : b.wipeCollection.wlmissing = b.wlmissing := rfl
@[simp] theorem Block.wipeCollection_wlmalformed (b : Block) : b.wipeCollection.wlmalformed = b.wlmalformed := rfl
@[simp] theorem Block.wipeCollection_wlchecked (b : Block) : b.wipeCollection.wlchecked = b.wlchecked := rfl

/-! ### `Block.wipeResults` -/

@[simp] theorem Block.wipeResults_phase (b : Block) : b.wipeResults.phase = b.phase := rfl
@[simp] theorem Block.wipeResults_width (b : Block) : b.wipeResults.width = b.width := rfl
@[simp] theorem Block.wipeResults_wvalid (b : Block) : b.wipeResults.wvalid = b.wvalid := rfl
@[simp] theorem Block.wipeResults_cmderr (b : Block) : b.wipeResults.cmderr = b.cmderr := rfl
@[simp] theorem Block.wipeResults_src (b : Block) : b.wipeResults.src = .noSource := rfl
@[simp] theorem Block.wipeResults_err (b : Block) : b.wipeResults.err = b.err := rfl
@[simp] theorem Block.wipeResults_cnt (b : Block) : b.wipeResults.cnt = b.cnt := rfl
@[simp] theorem Block.wipeResults_allbin (b : Block) : b.wipeResults.allbin = b.allbin := rfl
@[simp] theorem Block.wipeResults_allhex (b : Block) : b.wipeResults.allhex = b.allhex := rfl
@[simp] theorem Block.wipeResults_binbuf (b : Block) : b.wipeResults.binbuf = b.binbuf := rfl
@[simp] theorem Block.wipeResults_hexbuf (b : Block) : b.wipeResults.hexbuf = b.hexbuf := rfl
@[simp] theorem Block.wipeResults_ent (b : Block) : b.wipeResults.ent = 0 := rfl
@[simp] theorem Block.wipeResults_dig (b : Block) : b.wipeResults.dig = 0 := rfl
@[simp] theorem Block.wipeResults_cs (b : Block) : b.wipeResults.cs = 0 := rfl
@[simp] theorem Block.wipeResults_full (b : Block) : b.wipeResults.full = 0 := rfl
@[simp] theorem Block.wipeResults_idx (b : Block) : b.wipeResults.idx = Vector.replicate 24 0 := rfl
@[simp] theorem Block.wipeResults_wsel (b : Block) : b.wipeResults.wsel = b.wsel := rfl
@[simp] theorem Block.wipeResults_wllen (b : Block) : b.wipeResults.wllen = b.wllen := rfl
@[simp] theorem Block.wipeResults_wlmissing (b : Block) : b.wipeResults.wlmissing = b.wlmissing := rfl
@[simp] theorem Block.wipeResults_wlmalformed (b : Block) : b.wipeResults.wlmalformed = b.wlmalformed := rfl
@[simp] theorem Block.wipeResults_wlchecked (b : Block) : b.wipeResults.wlchecked = b.wlchecked := rfl

/-! ### `Block.raise` -/

@[simp] theorem Block.raise_phase (e : ErrKind) (b : Block) : (b.raise e).phase = e.phase := rfl
@[simp] theorem Block.raise_width (e : ErrKind) (b : Block) : (b.raise e).width = .bits128 := rfl
@[simp] theorem Block.raise_wvalid (e : ErrKind) (b : Block) : (b.raise e).wvalid = false := rfl
@[simp] theorem Block.raise_cmderr (e : ErrKind) (b : Block) : (b.raise e).cmderr = b.cmderr := rfl
@[simp] theorem Block.raise_src (e : ErrKind) (b : Block) : (b.raise e).src = .noSource := rfl
@[simp] theorem Block.raise_err (e : ErrKind) (b : Block) : (b.raise e).err = some e := rfl
@[simp] theorem Block.raise_cnt (e : ErrKind) (b : Block) : (b.raise e).cnt = 0 := rfl
@[simp] theorem Block.raise_allbin (e : ErrKind) (b : Block) : (b.raise e).allbin = true := rfl
@[simp] theorem Block.raise_allhex (e : ErrKind) (b : Block) : (b.raise e).allhex = true := rfl
@[simp] theorem Block.raise_binbuf (e : ErrKind) (b : Block) : (b.raise e).binbuf = 0 := rfl
@[simp] theorem Block.raise_hexbuf (e : ErrKind) (b : Block) : (b.raise e).hexbuf = 0 := rfl
@[simp] theorem Block.raise_ent (e : ErrKind) (b : Block) : (b.raise e).ent = 0 := rfl
@[simp] theorem Block.raise_dig (e : ErrKind) (b : Block) : (b.raise e).dig = 0 := rfl
@[simp] theorem Block.raise_cs (e : ErrKind) (b : Block) : (b.raise e).cs = 0 := rfl
@[simp] theorem Block.raise_full (e : ErrKind) (b : Block) : (b.raise e).full = 0 := rfl
@[simp] theorem Block.raise_idx (e : ErrKind) (b : Block) : (b.raise e).idx = Vector.replicate 24 0 := rfl
@[simp] theorem Block.raise_wsel (e : ErrKind) (b : Block) : (b.raise e).wsel = b.wsel := rfl
@[simp] theorem Block.raise_wllen (e : ErrKind) (b : Block) : (b.raise e).wllen = b.wllen := rfl
@[simp] theorem Block.raise_wlmissing (e : ErrKind) (b : Block) : (b.raise e).wlmissing = b.wlmissing := rfl
@[simp] theorem Block.raise_wlmalformed (e : ErrKind) (b : Block) : (b.raise e).wlmalformed = b.wlmalformed := rfl
@[simp] theorem Block.raise_wlchecked (e : ErrKind) (b : Block) : (b.raise e).wlchecked = b.wlchecked := rfl

/-! ### `Block.openRun` -/

@[simp] theorem Block.openRun_phase (b : Block) : b.openRun.phase = .text := rfl
@[simp] theorem Block.openRun_width (b : Block) : b.openRun.width = .bits128 := rfl
@[simp] theorem Block.openRun_wvalid (b : Block) : b.openRun.wvalid = false := rfl
@[simp] theorem Block.openRun_cmderr (b : Block) : b.openRun.cmderr = b.cmderr := rfl
@[simp] theorem Block.openRun_src (b : Block) : b.openRun.src = .noSource := rfl
@[simp] theorem Block.openRun_err (b : Block) : b.openRun.err = none := rfl
@[simp] theorem Block.openRun_cnt (b : Block) : b.openRun.cnt = 0 := rfl
@[simp] theorem Block.openRun_allbin (b : Block) : b.openRun.allbin = true := rfl
@[simp] theorem Block.openRun_allhex (b : Block) : b.openRun.allhex = true := rfl
@[simp] theorem Block.openRun_binbuf (b : Block) : b.openRun.binbuf = 0 := rfl
@[simp] theorem Block.openRun_hexbuf (b : Block) : b.openRun.hexbuf = 0 := rfl
@[simp] theorem Block.openRun_ent (b : Block) : b.openRun.ent = 0 := rfl
@[simp] theorem Block.openRun_dig (b : Block) : b.openRun.dig = 0 := rfl
@[simp] theorem Block.openRun_cs (b : Block) : b.openRun.cs = 0 := rfl
@[simp] theorem Block.openRun_full (b : Block) : b.openRun.full = 0 := rfl
@[simp] theorem Block.openRun_idx (b : Block) : b.openRun.idx = Vector.replicate 24 0 := rfl
@[simp] theorem Block.openRun_wsel (b : Block) : b.openRun.wsel = 0 := rfl
@[simp] theorem Block.openRun_wllen (b : Block) : b.openRun.wllen = b.wllen := rfl
@[simp] theorem Block.openRun_wlmissing (b : Block) : b.openRun.wlmissing = b.wlmissing := rfl
@[simp] theorem Block.openRun_wlmalformed (b : Block) : b.openRun.wlmalformed = b.wlmalformed := rfl
@[simp] theorem Block.openRun_wlchecked (b : Block) : b.openRun.wlchecked = b.wlchecked := rfl

/-! ### `Block.latchProvider` -/

@[simp] theorem Block.latchProvider_phase (p : ProviderPort) (b : Block) : (b.latchProvider p).phase = b.phase := rfl
@[simp] theorem Block.latchProvider_width (p : ProviderPort) (b : Block) : (b.latchProvider p).width = b.width := rfl
@[simp] theorem Block.latchProvider_wvalid (p : ProviderPort) (b : Block) : (b.latchProvider p).wvalid = b.wvalid := rfl
@[simp] theorem Block.latchProvider_cmderr (p : ProviderPort) (b : Block) : (b.latchProvider p).cmderr = b.cmderr := rfl
@[simp] theorem Block.latchProvider_src (p : ProviderPort) (b : Block) : (b.latchProvider p).src = b.src := rfl
@[simp] theorem Block.latchProvider_err (p : ProviderPort) (b : Block) : (b.latchProvider p).err = b.err := rfl
@[simp] theorem Block.latchProvider_cnt (p : ProviderPort) (b : Block) : (b.latchProvider p).cnt = b.cnt := rfl
@[simp] theorem Block.latchProvider_allbin (p : ProviderPort) (b : Block) : (b.latchProvider p).allbin = b.allbin := rfl
@[simp] theorem Block.latchProvider_allhex (p : ProviderPort) (b : Block) : (b.latchProvider p).allhex = b.allhex := rfl
@[simp] theorem Block.latchProvider_binbuf (p : ProviderPort) (b : Block) : (b.latchProvider p).binbuf = b.binbuf := rfl
@[simp] theorem Block.latchProvider_hexbuf (p : ProviderPort) (b : Block) : (b.latchProvider p).hexbuf = b.hexbuf := rfl
@[simp] theorem Block.latchProvider_ent (p : ProviderPort) (b : Block) : (b.latchProvider p).ent = b.ent := rfl
@[simp] theorem Block.latchProvider_dig (p : ProviderPort) (b : Block) : (b.latchProvider p).dig = b.dig := rfl
@[simp] theorem Block.latchProvider_cs (p : ProviderPort) (b : Block) : (b.latchProvider p).cs = b.cs := rfl
@[simp] theorem Block.latchProvider_full (p : ProviderPort) (b : Block) : (b.latchProvider p).full = b.full := rfl
@[simp] theorem Block.latchProvider_idx (p : ProviderPort) (b : Block) : (b.latchProvider p).idx = b.idx := rfl
@[simp] theorem Block.latchProvider_wsel (p : ProviderPort) (b : Block) : (b.latchProvider p).wsel = b.wsel := rfl
@[simp] theorem Block.latchProvider_wllen (p : ProviderPort) (b : Block) : (b.latchProvider p).wllen = p.len := rfl
@[simp] theorem Block.latchProvider_wlmissing (p : ProviderPort) (b : Block) : (b.latchProvider p).wlmissing = p.missing := rfl
@[simp] theorem Block.latchProvider_wlmalformed (p : ProviderPort) (b : Block) : (b.latchProvider p).wlmalformed = p.malformed := rfl
@[simp] theorem Block.latchProvider_wlchecked (p : ProviderPort) (b : Block) : (b.latchProvider p).wlchecked = true := rfl

/-! ### `Block.putChar` -/

@[simp] theorem Block.putChar_phase (c : Char8) (b : Block) : (b.putChar c).phase = b.phase := rfl
@[simp] theorem Block.putChar_width (c : Char8) (b : Block) : (b.putChar c).width = b.width := rfl
@[simp] theorem Block.putChar_wvalid (c : Char8) (b : Block) : (b.putChar c).wvalid = b.wvalid := rfl
@[simp] theorem Block.putChar_cmderr (c : Char8) (b : Block) : (b.putChar c).cmderr = b.cmderr := rfl
@[simp] theorem Block.putChar_src (c : Char8) (b : Block) : (b.putChar c).src = b.src := rfl
@[simp] theorem Block.putChar_err (c : Char8) (b : Block) : (b.putChar c).err = b.err := rfl
@[simp] theorem Block.putChar_cnt (c : Char8) (b : Block) : (b.putChar c).cnt = countAfter b.cnt := rfl
@[simp] theorem Block.putChar_allbin (c : Char8) (b : Block) : (b.putChar c).allbin = allbinAfter b.allbin c := rfl
@[simp] theorem Block.putChar_allhex (c : Char8) (b : Block) : (b.putChar c).allhex = allhexAfter b.allhex c := rfl
@[simp] theorem Block.putChar_binbuf (c : Char8) (b : Block) : (b.putChar c).binbuf = binbufAfter b.binbuf b.cnt.val c := rfl
@[simp] theorem Block.putChar_hexbuf (c : Char8) (b : Block) : (b.putChar c).hexbuf = hexbufAfter b.hexbuf b.cnt.val c := rfl
@[simp] theorem Block.putChar_ent (c : Char8) (b : Block) : (b.putChar c).ent = b.ent := rfl
@[simp] theorem Block.putChar_dig (c : Char8) (b : Block) : (b.putChar c).dig = b.dig := rfl
@[simp] theorem Block.putChar_cs (c : Char8) (b : Block) : (b.putChar c).cs = b.cs := rfl
@[simp] theorem Block.putChar_full (c : Char8) (b : Block) : (b.putChar c).full = b.full := rfl
@[simp] theorem Block.putChar_idx (c : Char8) (b : Block) : (b.putChar c).idx = b.idx := rfl
@[simp] theorem Block.putChar_wsel (c : Char8) (b : Block) : (b.putChar c).wsel = b.wsel := rfl
@[simp] theorem Block.putChar_wllen (c : Char8) (b : Block) : (b.putChar c).wllen = b.wllen := rfl
@[simp] theorem Block.putChar_wlmissing (c : Char8) (b : Block) : (b.putChar c).wlmissing = b.wlmissing := rfl
@[simp] theorem Block.putChar_wlmalformed (c : Char8) (b : Block) : (b.putChar c).wlmalformed = b.wlmalformed := rfl
@[simp] theorem Block.putChar_wlchecked (c : Char8) (b : Block) : (b.putChar c).wlchecked = b.wlchecked := rfl

/-! ### `Block.commit` -/

@[simp] theorem Block.commit_phase (r : Results) (b : Block) : (b.commit r).phase = .done := rfl
@[simp] theorem Block.commit_width (r : Results) (b : Block) : (b.commit r).width = r.width := rfl
@[simp] theorem Block.commit_wvalid (r : Results) (b : Block) : (b.commit r).wvalid = true := rfl
@[simp] theorem Block.commit_cmderr (r : Results) (b : Block) : (b.commit r).cmderr = b.cmderr := rfl
@[simp] theorem Block.commit_src (r : Results) (b : Block) : (b.commit r).src = r.src := rfl
@[simp] theorem Block.commit_err (r : Results) (b : Block) : (b.commit r).err = b.err := rfl
@[simp] theorem Block.commit_cnt (r : Results) (b : Block) : (b.commit r).cnt = 0 := rfl
@[simp] theorem Block.commit_allbin (r : Results) (b : Block) : (b.commit r).allbin = true := rfl
@[simp] theorem Block.commit_allhex (r : Results) (b : Block) : (b.commit r).allhex = true := rfl
@[simp] theorem Block.commit_binbuf (r : Results) (b : Block) : (b.commit r).binbuf = 0 := rfl
@[simp] theorem Block.commit_hexbuf (r : Results) (b : Block) : (b.commit r).hexbuf = 0 := rfl
@[simp] theorem Block.commit_ent (r : Results) (b : Block) : (b.commit r).ent = r.ent := rfl
@[simp] theorem Block.commit_dig (r : Results) (b : Block) : (b.commit r).dig = r.dig := rfl
@[simp] theorem Block.commit_cs (r : Results) (b : Block) : (b.commit r).cs = r.cs := rfl
@[simp] theorem Block.commit_full (r : Results) (b : Block) : (b.commit r).full = r.full := rfl
@[simp] theorem Block.commit_idx (r : Results) (b : Block) : (b.commit r).idx = r.idx := rfl
@[simp] theorem Block.commit_wsel (r : Results) (b : Block) : (b.commit r).wsel = b.wsel := rfl
@[simp] theorem Block.commit_wllen (r : Results) (b : Block) : (b.commit r).wllen = b.wllen := rfl
@[simp] theorem Block.commit_wlmissing (r : Results) (b : Block) : (b.commit r).wlmissing = b.wlmissing := rfl
@[simp] theorem Block.commit_wlmalformed (r : Results) (b : Block) : (b.commit r).wlmalformed = b.wlmalformed := rfl
@[simp] theorem Block.commit_wlchecked (r : Results) (b : Block) : (b.commit r).wlchecked = b.wlchecked := rfl

/-! ### `Block.writeWsel` -/

@[simp] theorem Block.writeWsel_phase (v : Word32) (b : Block) : (b.writeWsel v).phase = b.phase := rfl
@[simp] theorem Block.writeWsel_width (v : Word32) (b : Block) : (b.writeWsel v).width = b.width := rfl
@[simp] theorem Block.writeWsel_wvalid (v : Word32) (b : Block) : (b.writeWsel v).wvalid = b.wvalid := rfl
@[simp] theorem Block.writeWsel_cmderr (v : Word32) (b : Block) : (b.writeWsel v).cmderr = b.cmderr := rfl
@[simp] theorem Block.writeWsel_src (v : Word32) (b : Block) : (b.writeWsel v).src = b.src := rfl
@[simp] theorem Block.writeWsel_err (v : Word32) (b : Block) : (b.writeWsel v).err = b.err := rfl
@[simp] theorem Block.writeWsel_cnt (v : Word32) (b : Block) : (b.writeWsel v).cnt = b.cnt := rfl
@[simp] theorem Block.writeWsel_allbin (v : Word32) (b : Block) : (b.writeWsel v).allbin = b.allbin := rfl
@[simp] theorem Block.writeWsel_allhex (v : Word32) (b : Block) : (b.writeWsel v).allhex = b.allhex := rfl
@[simp] theorem Block.writeWsel_binbuf (v : Word32) (b : Block) : (b.writeWsel v).binbuf = b.binbuf := rfl
@[simp] theorem Block.writeWsel_hexbuf (v : Word32) (b : Block) : (b.writeWsel v).hexbuf = b.hexbuf := rfl
@[simp] theorem Block.writeWsel_ent (v : Word32) (b : Block) : (b.writeWsel v).ent = b.ent := rfl
@[simp] theorem Block.writeWsel_dig (v : Word32) (b : Block) : (b.writeWsel v).dig = b.dig := rfl
@[simp] theorem Block.writeWsel_cs (v : Word32) (b : Block) : (b.writeWsel v).cs = b.cs := rfl
@[simp] theorem Block.writeWsel_full (v : Word32) (b : Block) : (b.writeWsel v).full = b.full := rfl
@[simp] theorem Block.writeWsel_idx (v : Word32) (b : Block) : (b.writeWsel v).idx = b.idx := rfl
@[simp] theorem Block.writeWsel_wsel (v : Word32) (b : Block) : (b.writeWsel v).wsel = v.extractLsb' 0 5 := rfl
@[simp] theorem Block.writeWsel_wllen (v : Word32) (b : Block) : (b.writeWsel v).wllen = b.wllen := rfl
@[simp] theorem Block.writeWsel_wlmissing (v : Word32) (b : Block) : (b.writeWsel v).wlmissing = b.wlmissing := rfl
@[simp] theorem Block.writeWsel_wlmalformed (v : Word32) (b : Block) : (b.writeWsel v).wlmalformed = b.wlmalformed := rfl
@[simp] theorem Block.writeWsel_wlchecked (v : Word32) (b : Block) : (b.writeWsel v).wlchecked = b.wlchecked := rfl

/-! ### `State.withBlk` -/

@[simp] theorem State.withBlk_blk (b : Block) (s : State) : (s.withBlk b).blk = b := rfl
@[simp] theorem State.withBlk_herr (b : Block) (s : State) : (s.withBlk b).herr = s.herr := rfl
@[simp] theorem State.withBlk_rdata (b : Block) (s : State) : (s.withBlk b).rdata = s.rdata := rfl
@[simp] theorem State.withBlk_pending (b : Block) (s : State) : (s.withBlk b).pending = s.pending := rfl
@[simp] theorem State.withBlk_provider (b : Block) (s : State) : (s.withBlk b).provider = s.provider := rfl
@[simp] theorem State.withBlk_bits (b : Block) (s : State) : (s.withBlk b).bits = s.bits := rfl

/-! ### `State.respond` -/

@[simp] theorem State.respond_blk (d : Option Word32) (s : State) : (s.respond d).blk = s.blk := rfl
@[simp] theorem State.respond_herr (d : Option Word32) (s : State) : (s.respond d).herr = false := rfl
@[simp] theorem State.respond_rdata (d : Option Word32) (s : State) : (s.respond d).rdata = d := rfl
@[simp] theorem State.respond_pending (d : Option Word32) (s : State) : (s.respond d).pending = s.pending := rfl
@[simp] theorem State.respond_provider (d : Option Word32) (s : State) : (s.respond d).provider = s.provider := rfl
@[simp] theorem State.respond_bits (d : Option Word32) (s : State) : (s.respond d).bits = s.bits := rfl

/-! ### `State.refuseAccess` -/

@[simp] theorem State.refuseAccess_blk (d : Option Word32) (s : State) : (s.refuseAccess d).blk = s.blk.setCmderr := rfl
@[simp] theorem State.refuseAccess_herr (d : Option Word32) (s : State) : (s.refuseAccess d).herr = true := rfl
@[simp] theorem State.refuseAccess_rdata (d : Option Word32) (s : State) : (s.refuseAccess d).rdata = d := rfl
@[simp] theorem State.refuseAccess_pending (d : Option Word32) (s : State) : (s.refuseAccess d).pending = s.pending := rfl
@[simp] theorem State.refuseAccess_provider (d : Option Word32) (s : State) : (s.refuseAccess d).provider = s.provider := rfl
@[simp] theorem State.refuseAccess_bits (d : Option Word32) (s : State) : (s.refuseAccess d).bits = s.bits := rfl

/-! ### `State.accept` -/

@[simp] theorem State.accept_blk (l : List Event) (s : State) : (s.accept l).blk = s.blk := rfl
@[simp] theorem State.accept_herr (l : List Event) (s : State) : (s.accept l).herr = s.herr := rfl
@[simp] theorem State.accept_rdata (l : List Event) (s : State) : (s.accept l).rdata = s.rdata := rfl
@[simp] theorem State.accept_pending (l : List Event) (s : State) : (s.accept l).pending = l := rfl
@[simp] theorem State.accept_provider (l : List Event) (s : State) : (s.accept l).provider = s.provider := rfl
@[simp] theorem State.accept_bits (l : List Event) (s : State) : (s.accept l).bits = s.bits := rfl

/-! ### `State.hardReset` -/

@[simp] theorem State.hardReset_blk (s : State) : s.hardReset.blk = Block.reset := rfl
@[simp] theorem State.hardReset_herr (s : State) : s.hardReset.herr = false := rfl
@[simp] theorem State.hardReset_rdata (s : State) : s.hardReset.rdata = none := rfl
@[simp] theorem State.hardReset_pending (s : State) : s.hardReset.pending = s.pending := rfl
@[simp] theorem State.hardReset_provider (s : State) : s.hardReset.provider = s.provider := rfl
@[simp] theorem State.hardReset_bits (s : State) : s.hardReset.bits = s.bits := rfl

/-! ### `State.withFetchWord` -/

@[simp] theorem State.withFetchWord_blk (nbits w : Nat) (s : State) : (s.withFetchWord nbits w).blk = s.blk := rfl
@[simp] theorem State.withFetchWord_herr (nbits w : Nat) (s : State) : (s.withFetchWord nbits w).herr = s.herr := rfl
@[simp] theorem State.withFetchWord_rdata (nbits w : Nat) (s : State) : (s.withFetchWord nbits w).rdata = s.rdata := rfl
@[simp] theorem State.withFetchWord_pending (nbits w : Nat) (s : State) : (s.withFetchWord nbits w).pending = commandEvent nbits w :: s.pending := rfl
@[simp] theorem State.withFetchWord_provider (nbits w : Nat) (s : State) : (s.withFetchWord nbits w).provider = s.provider := rfl
@[simp] theorem State.withFetchWord_bits (nbits w : Nat) (s : State) : (s.withFetchWord nbits w).bits = s.bits := rfl

/-! ### What the width determines -/

@[simp] theorem Width.entropyBits_bits128 : Width.bits128.entropyBits = 128 := rfl
@[simp] theorem Width.entropyBits_bits256 : Width.bits256.entropyBits = 256 := rfl
@[simp] theorem Width.byteLength_bits128 : Width.bits128.byteLength = 16 := rfl
@[simp] theorem Width.byteLength_bits256 : Width.bits256.byteLength = 32 := rfl
@[simp] theorem Width.checksumBits_bits128 : Width.bits128.checksumBits = 4 := rfl
@[simp] theorem Width.checksumBits_bits256 : Width.bits256.checksumBits = 8 := rfl
@[simp] theorem Width.totalBits_bits128 : Width.bits128.totalBits = 132 := rfl
@[simp] theorem Width.totalBits_bits256 : Width.bits256.totalBits = 264 := rfl
@[simp] theorem Width.wordCount_bits128 : Width.bits128.wordCount = 12 := rfl
@[simp] theorem Width.wordCount_bits256 : Width.bits256.wordCount = 24 := rfl

end Sys2Proof.Machine
end

