-- ==== Sys2Proof/Laws/Ops.lean ====
section
/-!
SUPPORT. What each shared operation can do, said once: the pipeline, `whenLegal`, the meanings, draws, events, and the step. Later proofs
cite `step_move` (every change of the block a step can make) and `step_frame` rather than unfold the step.
-/

namespace Sys2Proof.Machine

open Host (Outcome)

/-! ### Errors -/

theorem ErrKind.phase_eq (e : ErrKind) : e.phase = .error ∨ e.phase = .fatal := by
  cases e <;> simp [ErrKind.phase]

theorem ErrKind.phase_ne_done (e : ErrKind) : e.phase ≠ .done := by cases e <;> simp [ErrKind.phase]

/-! ### Pipeline -/

/-- What the pipeline hands to the commit. -/
def resultsOf (hash : HashFun) (w : Width) (e : BitVec 256) (src : Src) : Results :=
  let dc := checksum hash w e
  let full := concat w e dc.2
  { width := w, ent := e, dig := dc.1, cs := dc.2, full := full, idx := groups w full, src := src }

/-- The pipeline commits or raises WordlistCorrupt, by the range check alone (42_encoder.md R169 to R171). -/
theorem pipeline_eq (hash : HashFun) (w : Width) (e : BitVec 256) (src : Src) (b : Block) :
    b.pipeline hash w e src =
      if inRange w (resultsOf hash w e src).full b.wllen then b.commit (resultsOf hash w e src)
      else b.raise .wordlistCorrupt := by
  simp only [Block.pipeline, encodeStage, resultsOf]
  split <;> rename_i h <;> split at h <;> simp_all
  simp [← h]

/-- A wordlist of 2048 entries or more passes the range check (42_encoder.md R165). -/
theorem inRange_of_le {w : Width} {full : BitVec 264} {n : BitVec 12} (h : 2048 ≤ n.toNat) :
    inRange w full n = true := by
  simp only [inRange, List.all_eq_true, decide_eq_true_eq]
  intro k _
  have := (group full k).isLt
  omega

theorem inRange_iff {w : Width} {full : BitVec 264} {n : BitVec 12} :
    inRange w full n = true ↔ ∀ k < w.wordCount, (group full k).toNat < n.toNat := by
  simp [inRange]

/-! ### Meanings -/

theorem whenLegal_legal {i : Instr} {f : Block → Block} {s : State} (h : legal i s.blk.phase s.blk.cnt = true) :
    whenLegal i f s = .next (s.withBlk (f s.blk)) := by simp [whenLegal, h]

theorem whenLegal_illegal {i : Instr} {f : Block → Block} {s : State} (h : legal i s.blk.phase s.blk.cnt = false) :
    whenLegal i f s = .next (s.withBlk s.blk.setCmderr) := by simp [whenLegal, h]

/-- The effect of a legal command on the block; DRAW's needs the drawn bits. -/
def effect (p : ProviderPort) (drawn : List Bool) (i : Instr) (b : Block) : Block :=
  match i with
  | .nop     => b
  | .init    => b.initialise p
  | .clear   => b.openRun
  | .putc c  => b.putChar c
  | .endText => b.endEffect hash256
  | .sel c   => b.select c
  | .draw    => b.pipeline hash256 b.width (leftAligned drawn) .drawn

/-- Outside its phases every command is the illegal command (45_control.md R223, R224). -/
theorem exec_illegal {i : Instr} {s : State} (h : legal i s.blk.phase s.blk.cnt = false) :
    exec i s = .next (s.withBlk s.blk.setCmderr) := by
  cases i
  case nop => simp [legal] at h
  case draw => simp only [exec, execDraw]; rw [if_neg (by simpa using h)]
  all_goals exact whenLegal_illegal h

/-- A legal command but DRAW has its effect on the block and touches nothing else. -/
theorem exec_legal {i : Instr} {s : State} (h : legal i s.blk.phase s.blk.cnt = true) (hd : i ≠ .draw) :
    exec i s = .next (s.withBlk (effect s.provider [] i s.blk)) := by
  cases i
  case draw => exact absurd rfl hd
  case nop => exact whenLegal_legal (f := fun b => b) h
  all_goals exact whenLegal_legal h

/-- A legal DRAW whose N requests are answered. -/
theorem exec_draw {s : State} {bs : List Bool} {src : BitSource}
    (h : legal .draw s.blk.phase s.blk.cnt = true) (hb : drawBits s.blk.width.entropyBits s.bits = some (bs, src)) :
    exec .draw s = .next { s with blk := effect s.provider bs .draw s.blk, bits := src } := by
  simp [exec, execDraw, h, hb, effect]

/-- A legal DRAW one of whose requests is never answered. -/
theorem exec_draw_silent {s : State} (h : legal .draw s.blk.phase s.blk.cnt = true)
    (hb : drawBits s.blk.width.entropyBits s.bits = none) : exec .draw s = .fault .bitSourceSilent := by
  simp [exec, execDraw, h, hb]

/-- Everything a command can do if it answers a next state. -/
theorem exec_cases {i : Instr} {s t : State} (h : exec i s = .next t) :
    (legal i s.blk.phase s.blk.cnt = false ∧ t = s.withBlk s.blk.setCmderr) ∨
    (legal i s.blk.phase s.blk.cnt = true ∧ i ≠ .draw ∧ t = s.withBlk (effect s.provider [] i s.blk)) ∨
    (∃ bs src, i = .draw ∧ legal i s.blk.phase s.blk.cnt = true ∧
      drawBits s.blk.width.entropyBits s.bits = some (bs, src) ∧
      t = { s with blk := effect s.provider bs .draw s.blk, bits := src }) := by
  rcases hl : legal i s.blk.phase s.blk.cnt with _ | _
  · rw [exec_illegal hl] at h; cases h; exact .inl ⟨rfl, rfl⟩
  · by_cases hd : i = .draw
    · subst hd
      rcases hb : drawBits s.blk.width.entropyBits s.bits with _ | ⟨bs, src⟩
      · rw [exec_draw_silent hl hb] at h; cases h
      · rw [exec_draw hl hb] at h; cases h; exact .inr (.inr ⟨bs, src, rfl, rfl, rfl, rfl⟩)
    · rw [exec_legal hl hd] at h; cases h; exact .inr (.inl ⟨rfl, hd, rfl⟩)

/-- A command leaves the environment alone, but for the Bit Source under DRAW. -/
theorem exec_frame {i : Instr} {s t : State} (h : exec i s = .next t) :
    t.herr = s.herr ∧ t.rdata = s.rdata ∧ t.pending = s.pending ∧ t.provider = s.provider ∧
      (i ≠ .draw → t.bits = s.bits) := by
  obtain ⟨-, rfl⟩ | ⟨-, -, rfl⟩ | ⟨bs, src, rfl, -, -, rfl⟩ := exec_cases h <;> simp

/-! ### Draws -/

/-- Each answer counts one request and leaves the source as live as it was. -/
theorem answer_spec {src src' : BitSource} {b : Bool} (h : src.answer = some (b, src')) :
    src'.requests = src.requests + 1 ∧ src'.live = src.live ∧ src'.queue = src.queue.tail ∧
      b = src.queue.head?.getD (Config.bitDraw src.requests) := by
  unfold BitSource.answer at h
  split at h
  · simp only [Option.some.injEq, Prod.mk.injEq] at h
    obtain ⟨rfl, rfl⟩ := h
    simp [*]
  · split at h
    · simp only [Option.some.injEq, Prod.mk.injEq] at h
      obtain ⟨rfl, rfl⟩ := h
      simp [*]
    · cases h

/-- `n` draws count `n` requests and give `n` bits. -/
theorem drawBits_spec {n : Nat} {src src' : BitSource} {bs : List Bool} (h : drawBits n src = some (bs, src')) :
    bs.length = n ∧ src'.requests = src.requests + n ∧ src'.live = src.live ∧ src'.queue = src.queue.drop n := by
  induction n generalizing src bs with
  | zero => cases h; simp
  | succ n ih =>
    simp only [drawBits] at h
    split at h
    · cases h
    · rename_i b mid ha
      split at h
      · cases h
      · rename_i rest fin hr
        cases h
        obtain ⟨h1, h2, h3, -⟩ := answer_spec ha
        obtain ⟨k1, k2, k3, k4⟩ := ih hr
        refine ⟨by simp [k1], by omega, k3.trans h2, ?_⟩
        rw [k4, h3, List.drop_tail]

/-! ### What a step can do to the block -/

/-- Every change of the block a step can make, with what is known when it makes it (45_control.md R225). -/
inductive BlockMove (p : ProviderPort) (b : Block) : Block → Prop where
  /-- NOP, an accepted read, a provider event, waiting -/
  | stay : BlockMove p b b
  /-- an illegal command or a refused access -/
  | refused : BlockMove p b b.setCmderr
  | wsel (v : Word32) : BlockMove p b (b.writeWsel v)
  | hardReset : BlockMove p b Block.reset
  | initFails (e : ErrKind) (hp : b.phase = .reset)
      (he : p.missing = true ∧ e = .wordlistMissing ∨
        p.missing = false ∧ p.malformed = true ∧ e = .wordlistMalformed) :
      BlockMove p b ((b.latchProvider p).raise e)
  | initGood (hp : b.phase = .reset) (hm : p.missing = false) (hf : p.malformed = false) :
      BlockMove p b { b.latchProvider p with phase := .text }
  | openRun (h0 : b.phase ≠ .reset) (h6 : b.phase ≠ .fatal) : BlockMove p b b.openRun
  | putChar (c : Char8) (hp : b.phase = .text ∨ b.phase = .rand) : BlockMove p b (b.putChar c)
  | defer (hp : b.phase = .text) (hc : b.cnt = 0) : BlockMove p b { b with phase := .select }
  | select (w : Width) (hp : b.phase = .select) :
      BlockMove p b { b with width := w, wvalid := true, phase := .rand }
  | runError (e : ErrKind)
      (he : b.phase = .text ∧ (e = .insufficientEntropy ∨ e = .invalidHexLength ∨ e = .invalidInputFormat) ∨
        b.phase = .rand ∧ (e = .invalidInputFormat ∨ e = .insufficientEntropy) ∨
        b.phase = .select ∧ e = .invalidWidthSelector) :
      BlockMove p b (b.raise e)
  | corrupt (w : Width) (e : BitVec 256) (src : Src) (hp : b.phase = .text ∨ b.phase = .rand)
      (hr : inRange w (resultsOf hash256 w e src).full b.wllen = false) :
      BlockMove p b (b.raise .wordlistCorrupt)
  | commit (w : Width) (e : BitVec 256) (src : Src) (ha : firstBits w e = e)
      (hp : b.phase = .text ∧ (src = .binText ∨ src = .hexText) ∨
        b.phase = .rand ∧ w = b.width ∧ (src = .manual ∨ src = .drawn))
      (hr : inRange w (resultsOf hash256 w e src).full b.wllen = true) :
      BlockMove p b (b.commit (resultsOf hash256 w e src))

theorem firstBits_getLsbD (w : Width) (v : BitVec 256) (i : Nat) (hi : i < 256) :
    (firstBits w v).getLsbD i = (decide (256 - w.entropyBits ≤ i) && v.getLsbD i) := by
  cases w
  · simp only [firstBits, Width.entropyBits, BitVec.getLsbD_append, BitVec.getLsbD_extractLsb']
    by_cases h : i < 128
    · simp [h, show ¬ 128 ≤ i by omega]
    · simp [h, show 128 ≤ i by omega, show i - 128 < 128 by omega, show 128 + (i - 128) = i by omega]
  · simp [firstBits, Width.entropyBits]

theorem firstBits_firstBits (w : Width) (v : BitVec 256) : firstBits w (firstBits w v) = firstBits w v := by
  apply BitVec.eq_of_getLsbD_eq
  intro i hi
  simp only [firstBits_getLsbD _ _ _ hi, Bool.and_self_left]

theorem leftAligned_getLsbD (bs : List Bool) (i : Nat) (hi : i < 256) :
    (leftAligned bs).getLsbD i = bs.getD (255 - i) false := by
  induction bs generalizing i with
  | nil => simp [leftAligned]
  | cons b bs ih =>
    simp only [leftAligned, BitVec.getLsbD_or, BitVec.getLsbD_shiftLeft, BitVec.getLsbD_ushiftRight,
      BitVec.getLsbD_setWidth]
    by_cases h : i = 255
    · subst h
      simp
    · rw [show 255 - i = (255 - (1 + i)) + 1 by omega, ih (1 + i) (by omega)]
      simp [show i < 255 by omega]

theorem firstBits_leftAligned {w : Width} {bs : List Bool} (h : bs.length = w.entropyBits) :
    firstBits w (leftAligned bs) = leftAligned bs := by
  apply BitVec.eq_of_getLsbD_eq
  intro i hi
  rw [firstBits_getLsbD _ _ _ hi, leftAligned_getLsbD _ _ hi]
  by_cases hc : 256 - w.entropyBits ≤ i
  · simp [hc]
  · simp only [hc, decide_false, Bool.false_and]
    rw [List.getD_eq_default]
    omega

/-- The pipeline as a move. -/
theorem pipeline_move {p : ProviderPort} {w : Width} {e : BitVec 256} {src : Src} {b : Block}
    (ha : firstBits w e = e)
    (hp : b.phase = .text ∧ (src = .binText ∨ src = .hexText) ∨
      b.phase = .rand ∧ w = b.width ∧ (src = .manual ∨ src = .drawn)) :
    BlockMove p b (b.pipeline hash256 w e src) := by
  rw [pipeline_eq]
  rcases hr : inRange w (resultsOf hash256 w e src).full b.wllen with _ | _
  · exact .corrupt w e src (by rcases hp with h | h <;> simp [h.1]) hr
  · exact .commit w e src ha hp hr

/-- END in TEXT as a move (40_normalizer.md R123). -/
theorem endInText_move {p : ProviderPort} {b : Block} (hp : b.phase = .text) :
    BlockMove p b (b.endInText hash256) := by
  have err (e : ErrKind) (he : e = .insufficientEntropy ∨ e = .invalidHexLength ∨ e = .invalidInputFormat) :
      BlockMove p b (b.raise e) := .runError e (.inl ⟨hp, he⟩)
  have pipe (w : Width) (v : BitVec 256) (src : Src) (hs : src = .binText ∨ src = .hexText) :
      BlockMove p b (b.pipeline hash256 w (firstBits w v) src) :=
    pipeline_move (firstBits_firstBits w v) (.inl ⟨hp, hs⟩)
  unfold Block.endInText
  split
  · exact .defer hp ‹_›
  split
  · unfold Block.normBinary
    split
    · exact err _ (by simp)
    split <;> exact pipe _ _ _ (by simp)
  split
  · unfold Block.normHex
    split
    · exact pipe _ _ _ (by simp)
    split
    · exact pipe _ _ _ (by simp)
    · exact err _ (by simp)
  · exact err _ (by simp)

/-- END in RAND as a move (44_entropy_source.md R204). -/
theorem endInRand_move {p : ProviderPort} {b : Block} (hp : b.phase = .rand) :
    BlockMove p b (b.endInRand hash256) := by
  unfold Block.endInRand
  split
  · exact .runError _ (.inr (.inl ⟨hp, by simp⟩))
  split
  · exact .runError _ (.inr (.inl ⟨hp, by simp⟩))
  · exact pipeline_move (firstBits_firstBits _ _) (.inr ⟨hp, rfl, by simp⟩)

/-- Every legal command's effect is a move. -/
theorem effect_move {p : ProviderPort} {bs : List Bool} {i : Instr} {b : Block}
    (hl : legal i b.phase b.cnt = true) (hb : i = .draw → bs.length = b.width.entropyBits) :
    BlockMove p b (effect p bs i b) := by
  cases i with
  | nop => exact .stay
  | init =>
    have hp : b.phase = .reset := by simpa [legal] using hl
    simp only [effect, Block.initialise]
    split
    · exact .initFails _ hp (.inl ⟨‹_›, rfl⟩)
    split
    · exact .initFails _ hp (.inr ⟨by simp_all, ‹_›, rfl⟩)
    · exact .initGood hp (by simp_all) (by simp_all)
  | clear => exact .openRun (by rintro h; simp [legal, h] at hl) (by rintro h; simp [legal, h] at hl)
  | putc c => exact .putChar c (by simpa [legal] using hl)
  | endText =>
    have hp : b.phase = .text ∨ b.phase = .rand := by simpa [legal] using hl
    simp only [effect, Block.endEffect]
    split
    · exact endInRand_move ‹_›
    · exact endInText_move (by simp_all)
  | sel c =>
    have hp : b.phase = .select := by simpa [legal] using hl
    simp only [effect, Block.select]
    split
    · exact .select _ hp
    · exact .runError _ (.inr (.inr ⟨hp, rfl⟩))
  | draw =>
    have hp : b.phase = .rand ∧ b.cnt = 0 := by simpa [legal] using hl
    exact pipeline_move (firstBits_leftAligned (hb rfl)) (.inr ⟨hp.1, rfl, by simp⟩)

/-- A command's change of the block is a move. -/
theorem exec_move {i : Instr} {s t : State} (h : exec i s = .next t) : BlockMove s.provider s.blk t.blk := by
  obtain ⟨-, rfl⟩ | ⟨hl, hd, rfl⟩ | ⟨bs, src, rfl, hl, hb, rfl⟩ := exec_cases h
  · exact .refused
  · exact effect_move hl (fun h => absurd h hd)
  · exact effect_move hl (fun _ => (drawBits_spec hb).1)

/-- Everything an event can do to the block if it answers a next state. -/
theorem runEvent_move {e : Event} {s t : State} (h : runEvent e s = .next t) : BlockMove s.provider s.blk t.blk := by
  cases e with
  | write a v =>
    simp only [runEvent, memWrite] at h
    split at h
    · cases h; exact .refused
    split at h
    · simp only [runCommand] at h
      split at h
      · cases h; exact .refused
      · simpa using exec_move h
    · cases h; exact .wsel v
  | read a =>
    simp only [runEvent, memRead] at h
    split at h
    · cases h; exact .refused
    split at h
    · cases h; exact .refused
    · cases h; exact .stay
  | hardReset => cases h; exact .hardReset
  | provider p =>
    cases h
    exact .stay

/-- Everything a step can do to the block if it answers a next state. -/
theorem step_move {s t : State} (h : step s = .next t) : BlockMove s.provider s.blk t.blk := by
  simp only [step, runNext] at h
  split at h
  · cases h; exact .stay
  · simpa using runEvent_move h

/-- A step is the first pending event's, run in the state with that event taken off. -/
theorem step_cons {s : State} {e : Event} {rest : List Event} (h : s.pending = e :: rest) :
    step s = runEvent e (s.accept rest) := by simp [step, runNext, h]

/-- A write of a word that decodes to a command executes that command. -/
theorem runEvent_command {s : State} {v : Word32} {i : Instr} (h : decode v = .command i) :
    runEvent (.write (Reg.offset .cmd) v) s = exec i (s.respond none) := by
  have h1 : refuses .write (Reg.offset .cmd) = false := by decide
  simp [runEvent, memWrite, h1, runCommand, h]

/-- A write of an illegal word is the illegal command. -/
theorem runEvent_illegal {s : State} {v : Word32} {why : Malformed} (h : decode v = .illegal why) :
    runEvent (.write (Reg.offset .cmd) v) s = .next ((s.respond none).withBlk s.blk.setCmderr) := by
  have h1 : refuses .write (Reg.offset .cmd) = false := by decide
  simp [runEvent, memWrite, h1, runCommand, h]

/-! ### What a step can be -/

/-- Everything a step can be if it answers a next state: which event it took, and the state it answers. -/
inductive StepCase (s t : State) : Prop where
  | wait (hp : s.pending = []) (ht : t = s)
  | command (v : Word32) (rest : List Event) (i : Instr) (hp : s.pending = .write (Reg.offset .cmd) v :: rest)
      (hd : decode v = .command i) (ht : exec i ((s.accept rest).respond none) = .next t)
  | illegalWord (v : Word32) (rest : List Event) (why : Malformed)
      (hp : s.pending = .write (Reg.offset .cmd) v :: rest) (hd : decode v = .illegal why)
      (ht : t = ((s.accept rest).respond none).withBlk s.blk.setCmderr)
  | wselWrite (v : Word32) (rest : List Event) (hp : s.pending = .write (Reg.offset .wsel) v :: rest)
      (ht : t = ((s.accept rest).respond none).withBlk (s.blk.writeWsel v))
  | refusedWrite (a : Addr) (v : Word32) (rest : List Event) (hp : s.pending = .write a v :: rest)
      (hr : refuses .write a = true) (ht : t = (s.accept rest).refuseAccess none)
  | refusedRead (a : Addr) (rest : List Event) (hp : s.pending = .read a :: rest)
      (hr : refuses .read a = true) (ht : t = (s.accept rest).refuseAccess (some 0))
  | read (a : Addr) (r : Reg) (rest : List Event) (hp : s.pending = .read a :: rest)
      (hr : refuses .read a = false) (ha : Reg.ofAddr a = some r)
      (ht : t = (s.accept rest).respond (some (readValue s.blk r)))
  | hardReset (rest : List Event) (hp : s.pending = .hardReset :: rest) (ht : t = (s.accept rest).hardReset)
  | provider (p : ProviderPort) (rest : List Event) (hp : s.pending = .provider p :: rest)
      (ht : t = { s.accept rest with provider := p })

/-- The only addresses a write is accepted at are those of `CMD` and `WSEL` (20_memory.md R62). -/
theorem accepted_write {a : Addr} (h : refuses .write a = false) :
    a = Reg.offset .cmd ∨ a = Reg.offset .wsel := by
  revert h
  revert a
  decide +kernel

theorem step_cases {s t : State} (h : step s = .next t) : StepCase s t := by
  rcases hp : s.pending with _ | ⟨e, rest⟩
  · simp only [step, runNext, hp] at h
    cases h
    exact .wait hp rfl
  rw [step_cons hp] at h
  cases e with
  | write a v =>
    simp only [runEvent, memWrite] at h
    rcases hr : refuses .write a with _ | _
    · rcases accepted_write hr with rfl | rfl
      · simp only [hr, Bool.false_eq_true, if_false, if_true, runCommand] at h
        rcases hd : decode v with i | why
        · rw [hd] at h
          exact .command v rest i hp hd h
        · rw [hd] at h
          cases h
          exact .illegalWord v rest why hp hd rfl
      · rw [if_neg (by simp [hr]), if_neg (by decide)] at h
        cases h
        exact .wselWrite v rest hp rfl
    · rw [if_pos hr] at h
      cases h
      exact .refusedWrite a v rest hp hr rfl
  | read a =>
    simp only [runEvent, memRead] at h
    rcases ha : Reg.ofAddr a with _ | r
    · rw [ha] at h
      cases h
      exact .refusedRead a rest hp (by simp [refuses, ha]) rfl
    · rw [ha] at h
      rcases hr : refuses .read a with _ | _
      · simp only [hr, Bool.false_eq_true, if_false] at h
        cases h
        exact .read a r rest hp hr ha rfl
      · simp only [hr, if_true] at h
        cases h
        exact .refusedRead a rest hp hr rfl
  | hardReset =>
    cases h
    exact .hardReset rest hp rfl
  | provider p =>
    cases h
    exact .provider p rest hp rfl

end Sys2Proof.Machine
end

