-- ==== Sys2Proof/Laws/Bits.lean ====
section
/-!
SUPPORT. Bit-level lemmas of the slices, buffers, bitstream and groups, one spec lemma per definition.
-/

namespace Sys2Proof.Machine

/-! ### Most significant bit first -/

theorem getMsbD_eq_getLsbD {w : Nat} (v : BitVec w) {p : Nat} (h : p < w) : v.getMsbD p = v.getLsbD (w - 1 - p) := by
  simp [BitVec.getMsbD, h]

theorem eq_of_getMsbD {w : Nat} {x y : BitVec w} (h : ∀ p < w, x.getMsbD p = y.getMsbD p) : x = y := by
  apply BitVec.eq_of_getLsbD_eq
  intro i hi
  have := h (w - 1 - i) (by omega)
  rw [getMsbD_eq_getLsbD x (by omega), getMsbD_eq_getLsbD y (by omega)] at this
  rwa [show w - 1 - (w - 1 - i) = i by omega] at this

theorem getLsbD_congr {w : Nat} (v : BitVec w) {i j : Nat} (h : i = j) : v.getLsbD i = v.getLsbD j := by rw [h]

/-- A slice counted from the most significant bit. -/
theorem extractLsb'_getMsbD {w : Nat} (v : BitVec w) (p n i : Nat) (hp : p + n ≤ w) (hi : i < n) :
    (v.extractLsb' (w - n - p) n).getMsbD i = v.getMsbD (p + i) := by
  rw [getMsbD_eq_getLsbD _ hi, getMsbD_eq_getLsbD _ (by omega), BitVec.getLsbD_extractLsb']
  simp only [show n - 1 - i < n by omega, decide_true, Bool.true_and]
  exact getLsbD_congr _ (by omega)

theorem append_getMsbD {m n : Nat} (x : BitVec m) (y : BitVec n) (p : Nat) :
    (x ++ y).getMsbD p = if p < m then x.getMsbD p else y.getMsbD (p - m) := by
  rw [BitVec.getMsbD_append]
  split
  · rename_i h
    split
    · omega
    · rfl
  · rename_i h
    split
    · rfl
    · omega

/-! ### Slices -/

theorem writeSlice_getLsbD {w k : Nat} (v : BitVec w) (lo : Nat) (x : BitVec k) (h : lo + k ≤ w) (i : Nat)
    (hi : i < w) :
    (writeSlice v lo x).getLsbD i = if lo ≤ i ∧ i < lo + k then x.getLsbD (i - lo) else v.getLsbD i := by
  simp only [writeSlice, BitVec.getLsbD_or, BitVec.getLsbD_and, BitVec.getLsbD_not, BitVec.getLsbD_shiftLeft,
    BitVec.getLsbD_setWidth, BitVec.getLsbD_allOnes, hi, decide_true, Bool.true_and]
  by_cases h1 : i < lo
  · simp [h1, show ¬ lo ≤ i by omega]
  · by_cases h2 : i < lo + k
    · simp [h1, h2, show lo ≤ i by omega, show i - lo < k by omega, show i - lo < w by omega]
    · have : x.getLsbD (i - lo) = false := BitVec.getLsbD_of_ge _ _ (by omega)
      simp [h1, h2, this, show ¬ (i - lo < k) by omega]

theorem leftAligned_getMsbD (bs : List Bool) (p : Nat) (hp : p < 256) :
    (leftAligned bs).getMsbD p = bs.getD p false := by
  rw [getMsbD_eq_getLsbD _ hp, leftAligned_getLsbD _ _ (by omega), show 255 - (256 - 1 - p) = p by omega]

theorem leftAlignedHex_getLsbD (hs : List (BitVec 4)) (i : Nat) (hi : i < 256) :
    (leftAlignedHex hs).getLsbD i = (hs.getD ((255 - i) / 4) 0).getMsbD ((255 - i) % 4) := by
  induction hs generalizing i with
  | nil => simp [leftAlignedHex, BitVec.getMsbD]
  | cons h hs ih =>
    simp only [leftAlignedHex, BitVec.getLsbD_or, BitVec.getLsbD_shiftLeft, BitVec.getLsbD_ushiftRight,
      BitVec.getLsbD_setWidth, hi, decide_true, Bool.true_and]
    by_cases h4 : 252 ≤ i
    · rw [BitVec.getLsbD_of_ge (leftAlignedHex hs) (4 + i) (by omega)]
      rw [show (255 - i) / 4 = 0 by omega, List.getD_cons_zero, getMsbD_eq_getLsbD _ (by omega)]
      simp only [show ¬ i < 252 by omega, decide_false, Bool.not_false, Bool.true_and, Bool.or_false,
        show i - 252 < 256 by omega, decide_true]
      exact getLsbD_congr _ (by omega)
    · rw [ih (4 + i) (by omega), show (255 - i) / 4 = (255 - (4 + i)) / 4 + 1 by omega, List.getD_cons_succ,
        show (255 - i) % 4 = (255 - (4 + i)) % 4 by omega]
      simp [show i < 252 by omega]

/-! ### The collection buffers -/

theorem isbin_iff (c : Char8) : isbin c = true ↔ c = 0x30 ∨ c = 0x31 := by simp [isbin]

/-- Only the character's own position of `BINBUF` changes, and only for a binary character (40_normalizer.md R121). -/
theorem binbufAfter_getLsbD (buf : BitVec 256) (n : Nat) (c : Char8) (i : Nat) (hi : i < 256) :
    (binbufAfter buf n c).getLsbD i =
      if n < 256 ∧ (c = 0x30 ∨ c = 0x31) ∧ i = 255 - n then c.getLsbD 0 else buf.getLsbD i := by
  unfold binbufAfter
  by_cases h : n < 256 ∧ isbin c = true
  · rw [if_pos h, writeSlice_getLsbD _ _ _ (by omega) _ hi]
    have := (isbin_iff c).1 h.2
    by_cases h2 : i = 255 - n
    · rw [if_pos (by omega), if_pos ⟨h.1, this, h2⟩]
      subst h2
      simp [binval]
    · rw [if_neg (by omega), if_neg (by tauto)]
  · rw [if_neg h, if_neg]
    rw [isbin_iff] at h
    tauto

/-- Only the character's own four bits of `HEXBUF` change, and only for a hex digit (40_normalizer.md R121). -/
theorem hexbufAfter_getLsbD (buf : BitVec 256) (n : Nat) (c : Char8) (i : Nat) (hi : i < 256) :
    (hexbufAfter buf n c).getLsbD i =
      match hexval c with
      | some h =>
        if n < 64 ∧ 252 - 4 * n ≤ i ∧ i ≤ 255 - 4 * n then h.getLsbD (i - (252 - 4 * n)) else buf.getLsbD i
      | none => buf.getLsbD i := by
  unfold hexbufAfter
  rcases hexval c with _ | h
  · rfl
  · simp only
    by_cases hn : n < 64
    · rw [if_pos hn, writeSlice_getLsbD _ _ _ (by omega) _ hi]
      by_cases h2 : 252 - 4 * n ≤ i ∧ i ≤ 255 - 4 * n
      · rw [if_pos (by omega), if_pos (by omega)]
      · rw [if_neg (by omega), if_neg (by omega)]
    · rw [if_neg hn, if_neg (by omega)]

/-! ### Checksum -/

theorem entropyOf_getMsbD (w : Width) (e : BitVec 256) (p : Nat) (hp : p < w.entropyBits) :
    (entropyOf w e).getMsbD p = e.getMsbD p := by
  have hn : w.entropyBits ≤ 256 := by cases w <;> decide
  have := extractLsb'_getMsbD e 0 w.entropyBits p (by omega) hp
  simpa [entropyOf] using this

theorem bytesOf_length {n : Nat} (v : BitVec n) : (bytesOf v).length = n / 8 := by simp [bytesOf]

theorem bytesOf_getMsbD {n : Nat} (v : BitVec n) (j i : Nat) (hj : j < n / 8) (hi : i < 8) :
    ((bytesOf v).getD j 0).getMsbD i = v.getMsbD (8 * j + i) := by
  simp only [bytesOf, List.getD_eq_getElem?_getD, List.getElem?_map, List.getElem?_range hj, Option.map_some,
    Option.getD_some]
  exact extractLsb'_getMsbD v (8 * j) 8 i (by omega) hi

theorem leadingBits_getMsbD (w : Width) (d : BitVec 256) (i : Nat) (hi : i < 8) :
    (leadingBits w d).getMsbD i =
      (decide (8 - w.checksumBits ≤ i) && d.getMsbD (i - (8 - w.checksumBits))) := by
  have hc : w.checksumBits ≤ 8 := by cases w <;> decide
  rw [getMsbD_eq_getLsbD _ hi, leadingBits, BitVec.getLsbD_setWidth, BitVec.getLsbD_extractLsb']
  by_cases h : 8 - w.checksumBits ≤ i
  · rw [getMsbD_eq_getLsbD d (by omega)]
    simp only [h, decide_true, Bool.true_and, show 8 - 1 - i < w.checksumBits by omega, show 8 - 1 - i < 8 by omega]
    exact getLsbD_congr _ (by omega)
  · simp [h, show ¬ 8 - 1 - i < w.checksumBits by omega]

/-! ### Bitstream and groups -/

theorem group_getMsbD (full : BitVec 264) (k j : Nat) (hk : k < 24) (hj : j < 11) :
    (group full k).getMsbD j = full.getMsbD (11 * k + j) := by
  simpa [group] using extractLsb'_getMsbD full (11 * k) 11 j (by omega) hj

theorem groups_getElem (w : Width) (full : BitVec 264) (k : Nat) (hk : k < 24) :
    (groups w full)[k] = if k < w.wordCount then group full k else 0 := by simp [groups]

theorem Width.wordCount_le (w : Width) : w.wordCount ≤ 24 := by cases w <;> decide

end Sys2Proof.Machine
end

