-- ==== Sys2Proof/Laws/Encoding.lean ====
section
/-!
SUPPORT. Fields and words are inverse (30_encoding.md R90).
-/

namespace Sys2Proof

theorem extract_append {m n : Nat} (x : BitVec m) (y : BitVec n) (lo k : Nat) :
    (x ++ y).extractLsb' (n + lo) k = x.extractLsb' lo k := by
  apply BitVec.eq_of_getLsbD_eq
  intro i hi
  simp only [BitVec.getLsbD_extractLsb', BitVec.getLsbD_append, hi, decide_true, Bool.true_and]
  rw [if_neg (by omega), show n + lo + i - n = lo + i by omega]

theorem extract_append_low {m n : Nat} (x : BitVec m) (y : BitVec n) : (x ++ y).extractLsb' 0 n = y := by
  apply BitVec.eq_of_getLsbD_eq
  intro i hi
  simp [BitVec.getLsbD_append, hi]

theorem extract_self {n : Nat} (x : BitVec n) : x.extractLsb' 0 n = x := by
  apply BitVec.eq_of_getLsbD_eq
  intro i hi
  simp [hi]

theorem append_extract {w : Nat} (v : BitVec w) (lo m n : Nat) :
    v.extractLsb' (lo + n) m ++ v.extractLsb' lo n = v.extractLsb' lo (m + n) := by
  apply BitVec.eq_of_getLsbD_eq
  intro i hi
  simp only [BitVec.getLsbD_append, BitVec.getLsbD_extractLsb', hi, decide_true, Bool.true_and]
  split
  · simp [*]
  · rw [show lo + n + (i - n) = lo + i by omega]
    simp [show i - n < m by omega]

/-- The fields of the word with fields `w` are `w`. -/
theorem fieldsOf_wordOf (w : CommandWord) : fieldsOf (wordOf w) = w := by
  obtain ⟨a, b, c, d⟩ := w
  simp only [fieldsOf, wordOf, CommandWord.mk.injEq]
  refine ⟨?_, ?_, ?_, ?_⟩
  · exact (extract_append (a ++ b ++ c) d 8 16).trans
      ((extract_append (a ++ b) c 4 16).trans ((extract_append a b 0 16).trans (extract_self a)))
  · exact (extract_append (a ++ b ++ c) d 4 4).trans
      ((extract_append (a ++ b) c 0 4).trans (extract_append_low a b))
  · exact (extract_append (a ++ b ++ c) d 0 4).trans (extract_append_low (a ++ b) c)
  · exact extract_append_low (a ++ b ++ c) d

/-- The word with the fields of `v` is `v`. -/
theorem wordOf_fieldsOf (v : Word32) : wordOf (fieldsOf v) = v := by
  simp only [fieldsOf, wordOf]
  have h1 := append_extract v 12 16 4
  have h2 := append_extract v 8 (16 + 4) 4
  have h3 := append_extract v 0 (16 + 4 + 4) 8
  calc v.extractLsb' 16 16 ++ v.extractLsb' 12 4 ++ v.extractLsb' 8 4 ++ v.extractLsb' 0 8
      = v.extractLsb' 12 (16 + 4) ++ v.extractLsb' 8 4 ++ v.extractLsb' 0 8 := by rw [← h1]
    _ = v.extractLsb' 8 (16 + 4 + 4) ++ v.extractLsb' 0 8 := by rw [← h2]
    _ = v.extractLsb' 0 (16 + 4 + 4 + 8) := by rw [← h3]
    _ = v := extract_self v

end Sys2Proof
end

