-- ==== Sys2Proof/Laws/PerInstr.lean ====
section
/-!
SUPPORT. Facts of every instruction as syntax, one lemma per constructor: its word passes the checks of 30_encoding.md R93, and the fields of the
word are its own (R90, R92).
-/

namespace Sys2Proof.Laws.Encodes

/-- The word of `i` is well-formed and carries `i`'s opcode and argument (30_encoding.md R92, R93). -/
def Statement (i : Instr) : Prop :=
  (fieldsOf (encode i)).malformed = none ∧ (fieldsOf (encode i)).op = i.opcode ∧ (fieldsOf (encode i)).arg = i.argument

theorem nop : Statement .nop := by simp only [Statement, encode, fieldsOf_wordOf]; decide

theorem init : Statement .init := by simp only [Statement, encode, fieldsOf_wordOf]; decide

theorem clear : Statement .clear := by simp only [Statement, encode, fieldsOf_wordOf]; decide

theorem putc (c : Char8) : Statement (.putc c) := by
  simp [Statement, encode, fieldsOf_wordOf, CommandWord.malformed, Instr.opcode, takesNoArg]

theorem endText : Statement .endText := by simp only [Statement, encode, fieldsOf_wordOf]; decide

theorem sel (c : Char8) : Statement (.sel c) := by
  simp [Statement, encode, fieldsOf_wordOf, CommandWord.malformed, Instr.opcode, takesNoArg]

theorem draw : Statement .draw := by simp only [Statement, encode, fieldsOf_wordOf]; decide

end Sys2Proof.Laws.Encodes
end

