-- ==== Sys2Proof/Machine/HostProgram.lean ====
section
/-!
DEFINITION. The notation for host programs (30_encoding.md R101, R102): every statement and pseudo-statement, expanded to the host's
transactions.
-/

namespace Sys2Proof.Machine

/-- A statement of 30_encoding.md R101 or a pseudo-statement of R102. -/
inductive HostStmt where
  | nop
  | init
  | clear
  | putc (c : Char8)
  | endText
  | sel (c : Char8)
  | draw
  /-- `wr WSEL, n` -/
  | wrWsel (n : Word32)
  /-- `rd REG` -/
  | rd (r : Reg)
  /-- `puts "…"` -/
  | puts (t : List Char8)
  /-- `rep n, 'x'` -/
  | rep (n : Nat) (c : Char8)
  /-- `cmd 0xVVVVVVVV` -/
  | cmd (v : Word32)
  deriving DecidableEq, Repr

/-- The host's write of a command word to `CMD`. -/
def writeCmd (v : Word32) : Event := .write (Reg.offset .cmd) v

/-- What the Host does for one statement (30_encoding.md R101, R102). -/
def HostStmt.events : HostStmt → List Event
  | .nop      => [writeCmd (encode .nop)]
  | .init     => [writeCmd (encode .init)]
  | .clear    => [writeCmd (encode .clear)]
  | .putc c   => [writeCmd (encode (.putc c))]
  | .endText  => [writeCmd (encode .endText)]
  | .sel c    => [writeCmd (encode (.sel c))]
  | .draw     => [writeCmd (encode .draw)]
  | .wrWsel n => [.write (Reg.offset .wsel) n]
  | .rd r     => [.read r.offset]
  | .puts t   => t.map fun c => writeCmd (encode (.putc c))
  | .rep n c  => List.replicate n (writeCmd (encode (.putc c)))
  | .cmd v    => [writeCmd v]

/-- A host program, one statement after another. -/
def hostEvents (p : List HostStmt) : List Event := p.flatMap HostStmt.events

end Sys2Proof.Machine
end

