-- ==== Sys2Proof/Tests/Slice0.lean ====
section
/-!
SUPPORT. Tests. Words are written out from 30_encoding.md R90 and R92; expected results are those of 95_test_vectors.md and
41_checksum.md R149 (each test names its vector). `witness_<Obligation>` shows states and operands that meet the
hypotheses of that obligation, one for each clause, at the boundaries.
-/

namespace Sys2Proof.Tests

-- One theorem after another: the kernel evaluations below, side by side, ask for too many threads.
set_option Elab.async false

open Sys2Proof.Machine Sys2Proof.Claims
open Host (Outcome)

/-! ### Small states -/

/-- The machine with this block and these events to come. -/
def hostState (b : Block) (es : List Event) : State := { State.reset with blk := b, pending := es }

/-- TEXT after INIT with the good provider, nothing typed. -/
def textBlk : Block := { Block.reset with phase := .text, wllen := 2048, wlchecked := true }

/-- TEXT with `n` binary characters recorded. -/
def binBlk (n : Fin 257) (bits : BitVec 256) : Block := { textBlk with cnt := n, binbuf := bits }

/-- TEXT with `n` hex characters recorded, not all binary. -/
def hexBlk (n : Fin 257) (digits : BitVec 256) : Block := { textBlk with cnt := n, allbin := false, hexbuf := digits }

/-- TEXT with `n` characters, neither binary nor hex. -/
def otherBlk (n : Fin 257) : Block := { textBlk with cnt := n, allbin := false, allhex := false }

/-- SELECT, and RAND with width `w` and `n` characters. -/
def selectBlk : Block := { textBlk with phase := .select }
def randBlk (w : Width) (n : Fin 257) : Block := { textBlk with phase := .rand, width := w, wvalid := true, cnt := n }

/-- DONE with the results of vector V1 (95_test_vectors.md 2.1): the entropy is 128 zero bits. -/
def doneBlk : Block := committed .bits128 0 .binText textBlk

/-- DONE with the results of vector V5: 256 zero bits. -/
def doneBlk256 : Block := committed .bits256 0 .binText textBlk

/-- ERROR and FATAL. -/
def errorBlk : Block := errorEntry .insufficientEntropy textBlk
def fatalBlk : Block := errorEntry .wordlistCorrupt textBlk

/-- A Bit Source with `n` zeros ready and nothing after them. -/
def zeros (n : Nat) : BitSource := { queue := List.replicate n false, live := false, requests := 0 }

def withBits (s : State) (src : BitSource) : State := { s with bits := src }
def withProvider (s : State) (m f : Bool) (n : BitVec 12) : State := { s with provider := ⟨m, f, n⟩ }

/-- What an outcome answers. -/
def nextState : Outcome State Fault Refusal → Option State
  | .next t => some t
  | .fault _ => none
  | .refused _ => none

def nextBlk (o : Outcome State Fault Refusal) : Option Block := (nextState o).map State.blk

/-- The error a command leaves, and the phase. -/
def errAfter (i : Instr) (s : State) : Option (Phase × Option ErrKind) :=
  (nextBlk (exec i s)).map fun b => (b.phase, b.err)

/-- `STATUS` after a command. -/
def statusAfter (i : Instr) (s : State) : Option Word32 := (nextBlk (exec i s)).map statusWord

theorem next_of {o : Outcome State Fault Refusal} (h : (nextState o).isSome = true) : ∃ t, o = .next t := by
  cases o with
  | next t => exact ⟨t, rfl⟩
  | fault r => simp [nextState] at h
  | refused r => simp [nextState] at h

def faultOf : Outcome State Fault Refusal → Option Fault
  | .next _ => none
  | .fault r => some r
  | .refused _ => none

theorem fault_of {o : Outcome State Fault Refusal} {r : Fault} (h : faultOf o = some r) : o = .fault r := by
  cases o <;> simp_all [faultOf]

/-! ### Decoding: words written out bit by bit (30_encoding.md R92) -/

theorem test_decode_nop : decode 0b0000000000000000_0000_0000_00000000#32 = .command .nop := by decide
theorem test_decode_init : decode 0b0000000000000000_0001_0000_00000000#32 = .command .init := by decide
theorem test_decode_clear : decode 0b0000000000000000_0010_0000_00000000#32 = .command .clear := by decide
theorem test_decode_putc : decode 0b0000000000000000_0011_0000_01100110#32 = .command (.putc 0x66) := by decide
theorem test_decode_putc_ff : decode 0b0000000000000000_0011_0000_11111111#32 = .command (.putc 0xFF) := by decide
theorem test_decode_end : decode 0b0000000000000000_0100_0000_00000000#32 = .command .endText := by decide
theorem test_decode_sel : decode 0b0000000000000000_0101_0000_00110001#32 = .command (.sel 0x31) := by decide
theorem test_decode_draw : decode 0b0000000000000000_0110_0000_00000000#32 = .command .draw := by decide
theorem test_encode_putc : encode (.putc 0x66) = 0x00003066 := by decide
theorem test_encode_sel : encode (.sel 0x31) = 0x00005031 := by decide
theorem test_table_word : decodeTableWord 32 0x6000 = some .draw ∧ decodeTableWord 32 0x7000 = none := by decide

/-! ### WellFormed refuses: one ill-formed term for each check (30_encoding.md R93) -/

theorem test_malformed_zeroHi : CommandWord.malformed ⟨1, 0, 0, 0⟩ = some .zeroHi := by decide
theorem test_malformed_zeroLo : CommandWord.malformed ⟨0, 1, 1, 0⟩ = some .zeroLo := by decide
theorem test_malformed_reservedOp : CommandWord.malformed ⟨0, 7, 0, 0⟩ = some .reservedOp := by decide
theorem test_malformed_argNonzero : CommandWord.malformed ⟨0, 4, 0, 1⟩ = some .argNonzero := by decide
theorem test_wellFormed : CommandWord.wellFormed ⟨0, 3, 0, 0xFF⟩ = true := by decide
/-- Vector T5's illegal words. -/
theorem test_decode_illegal :
    decode 0x00000001 = .illegal .argNonzero ∧ decode 0x00007000 = .illegal .reservedOp ∧
    decode 0x0000F000 = .illegal .reservedOp ∧ decode 0x00010000 = .illegal .zeroHi ∧
    decode 0x00001100 = .illegal .zeroLo ∧ decode 0x00001001 = .illegal .argNonzero := by decide

/-! ### One step of each instruction -/

/-- NOP leaves V1's end state. -/
theorem test_nop : statusAfter .nop (hostState doneBlk []) = some 0x00000114 := by decide +kernel

/-- T2 and T3. -/
theorem test_init_missing :
    (nextBlk (exec .init (withProvider State.reset true true 0))).map (fun b => (statusWord b, wlstatWord b)) =
      some (0x00000006, 0x80030000) := by decide +kernel
theorem test_init_malformed :
    (nextBlk (exec .init (withProvider State.reset false true 2047))).map (fun b => (statusWord b, wlstatWord b)) =
      some (0x00000006, 0x800207FF) := by decide +kernel

/-- T7, with `WSEL` set before, and T4. -/
theorem test_clear :
    nextBlk (exec .clear (hostState { doneBlk with wsel := 11 } [])) = some textBlk := by decide +kernel
theorem test_clear_fatal : statusAfter .clear (hostState fatalBlk []) = some 0x00000026 := by decide +kernel

/-- The second character of B6. -/
theorem test_putc :
    (nextBlk (exec (.putc 0x66)
      (hostState { binBlk 1 (1#256 <<< 255) with hexbuf := 1#256 <<< 252 } []))).map
      (fun b => (b.cnt.val, b.allbin, b.allhex, b.binbuf, b.hexbuf)) =
      some (2, false, true, 1#256 <<< 255, 0x1F#256 <<< 248) := by decide +kernel
/-- B5: the count stays at 256. -/
theorem test_putc_saturates :
    (nextBlk (exec (.putc 0x31) (hostState (binBlk 256 0) []))).map (fun b => (b.cnt.val, b.binbuf)) =
      some (256, 0) := by decide +kernel

/-- V1: 128 characters '0'. -/
theorem test_end_v1 :
    (nextBlk (exec .endText (hostState (binBlk 128 0) []))).map
      (fun b => (statusWord b, b.dig, b.cs, lastWord b, readValue b (.full 4))) =
      some (0x00000114, 0x374708fff7719dd5979ec875d56cd2286f6d3cf7ec317a3b25632aab28ec37bb, 0x03, 0x80040003,
        0x30000000) := by decide +kernel
/-- V3: `7f` sixteen times, the whole index list. -/
theorem test_end_v3 :
    (nextBlk (exec .endText
      (hostState (hexBlk 32 (0x7f7f7f7f7f7f7f7f7f7f7f7f7f7f7f7f#256 <<< 128)) []))).map
      (fun b => b.indices.map BitVec.toNat) =
      some [1019, 2015, 1790, 2039, 1983, 1533, 2031, 1919, 1019, 2015, 1790, 2040] := by decide +kernel

/-- S2 and S3. -/
theorem test_sel : statusAfter (.sel 0x31) (hostState selectBlk []) = some 0x0000001B := by decide +kernel
theorem test_sel_other :
    errAfter (.sel 0x32) (hostState selectBlk []) = some (.error, some .invalidWidthSelector) := by decide +kernel

/-- S5: the source gives 128 zeros. -/
theorem test_draw :
    (nextBlk (exec .draw (withBits (hostState (randBlk .bits128 0) []) (zeros 128)))).map
      (fun b => (statusWord b, lastWord b)) = some (0x00000414, 0x80040003) := by decide +kernel
/-- Program 2: 1, 0, 1, 0, … over 256 bits; `CS` and the last index. -/
theorem test_draw_256 :
    (nextBlk (exec .draw (withBits (hostState (randBlk .bits256 0) [])
      { queue := (List.range 256).map (fun i => i % 2 == 0), live := false, requests := 0 }))).map
      (fun b => (statusWord b, b.cs, lastWord b)) = some (0x0000041C, 0xE0, 0x82E102E0) := by decide +kernel

/-! ### The port -/

/-- 2.6: reads, `WSEL`, and a refused read in V1's end state. -/
theorem test_readout :
    readValue doneBlk .geom = 0x4084040C ∧ readValue doneBlk (.dig 7) = 0x28EC37BB ∧
    readValue doneBlk (.idx 11) = 0x80040003 ∧ readValue doneBlk (.idx 12) = 0 ∧
    readValue doneBlk .wlstat = 0x80000800 ∧
    Block.wlAddr { doneBlk with wsel := 11 } = 3 ∧ Block.wlEn { doneBlk with wsel := 12 } = false ∧
    (doneBlk.writeWsel 0xFFFFFFFF).wsel = 0x1F := by decide +kernel
theorem test_refused_read :
    (nextState (step (hostState doneBlk [.read 0x022]))).map (fun t => (t.herr, t.rdata, statusWord t.blk)) =
      some (true, some 0, 0x00000134) := by decide +kernel

/-- 30_encoding.md R101, R102: statements of host programs. -/
theorem test_host_program :
    hostEvents [.init, .puts [0x30, 0x31], .rd .cnt, .wrWsel 11] =
      [.write 0x004 0x00001000, .write 0x004 0x00003030, .write 0x004 0x00003031, .read 0x014,
        .write 0x018 11] := by decide

/-- The command a host puts next is the one the next step runs. -/
theorem test_withFetchWord : nextBlk (step (State.reset.withFetchWord 32 0x1000)) = some textBlk := by decide +kernel

/-- SHA-256's check values (41_checksum.md R149). -/
theorem test_sha256_zero16 :
    hash256 (List.replicate 16 0x00) = 0x374708fff7719dd5979ec875d56cd2286f6d3cf7ec317a3b25632aab28ec37bb := by
  decide +kernel

/-! ### The invariants hold in the states used below -/

theorem test_text_inv : textBlk.Inv := by
  constructor
  case results => exact fun h => absurd h (by decide)
  all_goals decide +kernel

theorem test_error_inv : errorBlk.Inv := by
  constructor
  case results => exact fun h => absurd h (by decide)
  all_goals decide +kernel

theorem test_fatal_inv : fatalBlk.Inv := by
  constructor
  case results => exact fun h => absurd h (by decide)
  all_goals decide +kernel

theorem test_done_agrees : doneBlk.ResultsAgree := by constructor <;> decide +kernel
theorem test_done_inv : doneBlk.Inv := by
  constructor
  case results => exact fun _ => test_done_agrees
  all_goals decide +kernel

/-! ### Witnesses of the hypotheses -/

/-- Reads and writes used as the next event. -/
def readState (b : Block) (a : Addr) : State := hostState b [.read a]
def writeState (b : Block) (a : Addr) (v : Word32) : State := hostState b [.write a v]

theorem witness_CommandWordsRoundTrip : decode 0x00003066 = .command (.putc 0x66) := by decide

/-- A reserved opcode, a must-be-zero field, and a command outside its phases; the write is the next event. -/
theorem witness_IllegalCommandOnlySetsCmderr :
    (writeState textBlk 0x004 0x00007000).pending = .write 0x004 0x00007000 :: [] ∧
    (¬ ∃ i, wordNames 0x00007000 i ∧ executes i textBlk.phase textBlk.cnt) ∧
    (¬ ∃ i, wordNames 0x00001100 i ∧ executes i textBlk.phase textBlk.cnt) ∧
    (¬ ∃ i, wordNames 0x00001001 i ∧ executes i Block.reset.phase Block.reset.cnt) ∧
    (¬ ∃ i, wordNames 0x00001000 i ∧ executes i textBlk.phase textBlk.cnt) ∧
    (¬ ∃ i, wordNames 0x00006000 i ∧ executes i (randBlk .bits128 1).phase (randBlk .bits128 1).cnt) := by
  refine ⟨rfl, ?_, ?_, ?_, ?_, ?_⟩
  · rintro ⟨i, ⟨-, -, h, -⟩, -⟩; simp [commandOf] at h
  · rintro ⟨i, ⟨-, h, -, -⟩, -⟩; simp at h
  · rintro ⟨i, ⟨-, -, -, h⟩, -⟩; simp at h
  · rintro ⟨i, ⟨-, -, h, -⟩, h', -⟩; simp [commandOf] at h; subst h; simp [legalIn, textBlk] at h'
  · rintro ⟨i, ⟨-, -, h, -⟩, -, h'⟩; simp [commandOf] at h; subst h; simp [randBlk] at h'

theorem witness_CommandOutsideItsPhasesOnlySetsCmderr :
    ¬ executes .init textBlk.phase textBlk.cnt ∧ ¬ executes .clear fatalBlk.phase fatalBlk.cnt ∧
    ¬ executes (.putc 0x30) doneBlk.phase doneBlk.cnt ∧ ¬ executes .endText selectBlk.phase selectBlk.cnt ∧
    ¬ executes (.sel 0x30) textBlk.phase textBlk.cnt ∧
    ¬ executes .draw (randBlk .bits128 1).phase (randBlk .bits128 1).cnt := by
  simp only [executes]; decide +kernel

theorem witness_StepRunsDecodedCommand :
    (writeState textBlk 0x004 0x00003066).pending = .write 0x004 0x00003066 :: [] ∧
    decode 0x00003066 = .command (.putc 0x66) := by decide

/-- A reset from DONE, and one from a state whose last access was refused. -/
theorem witness_HardResetFromAnyState :
    (hostState doneBlk [.hardReset, .read 0x008]).pending = .hardReset :: [.read 0x008] ∧
    ({ hostState doneBlk [.hardReset] with herr := true } : State).pending = .hardReset :: [] ∧
    ({ hostState doneBlk [.hardReset] with herr := true } : State).herr = true := ⟨rfl, rfl, rfl⟩

theorem witness_WaitsWithNothingPending : (hostState doneBlk []).pending = [] := by decide

theorem witness_InitTakesTheProvidersVerdict :
    State.reset.blk.phase = .reset ∧
    ((withProvider State.reset false false 2048).provider.missing = false ∧
      (withProvider State.reset false false 2048).provider.malformed = false) ∧
    (withProvider State.reset true true 0).provider.missing = true ∧
    ((withProvider State.reset false true 2047).provider.missing = false ∧
      (withProvider State.reset false true 2047).provider.malformed = true) ∧
    (hostState textBlk []).blk.phase ≠ .reset := by decide

theorem witness_NopLeavesEverything : (0x01 : BitVec 8) ≠ 0 ∧ (0xFF : BitVec 8) ≠ 0 := by decide

theorem witness_ClearOpensFreshRun :
    (doneBlk.phase ≠ .reset ∧ doneBlk.phase ≠ .fatal) ∧ (Block.reset.phase = .reset ∨ Block.reset.phase = .fatal) ∧
    (fatalBlk.phase = .reset ∨ fatalBlk.phase = .fatal) := by decide +kernel

/-- The ends of each range of codes, and their neighbours outside. -/
theorem witness_CharacterClasses :
    (∀ n ∈ [0x30, 0x39], 0x30 ≤ n ∧ n ≤ 0x39) ∧ (∀ n ∈ [0x41, 0x46], 0x41 ≤ n ∧ n ≤ 0x46) ∧
    (∀ n ∈ [0x61, 0x66], 0x61 ≤ n ∧ n ≤ 0x66) ∧
    (∀ n ∈ [0x2F, 0x3A, 0x40, 0x47, 0x60, 0x67], ¬ (0x30 ≤ n ∧ n ≤ 0x39) ∧ ¬ (0x41 ≤ n ∧ n ≤ 0x46) ∧
      ¬ (0x61 ≤ n ∧ n ≤ 0x66)) ∧
    [0x30#8, 0x39#8, 0x41#8, 0x46#8, 0x61#8, 0x66#8].map (fun c => (hexval c).map BitVec.toNat) =
      [some 0, some 9, some 10, some 15, some 10, some 15] ∧
    [0x2F#8, 0x3A#8, 0x40#8, 0x47#8, 0x60#8, 0x67#8].map hexval = [none, none, none, none, none, none] := by decide

/-- Both phases, with the count at 0, 63, 64, 255 and 256. -/
theorem witness_PutcRecordsOneCharacter :
    (∀ n ∈ [(0 : Fin 257), 63, 64, 255, 256], (binBlk n 0).phase = .text ∨ (binBlk n 0).phase = .rand) ∧
    (∀ n ∈ [(0 : Fin 257), 255, 256], (randBlk .bits256 n).phase = .text ∨ (randBlk .bits256 n).phase = .rand) ∧
    (doneBlk.phase ≠ .text ∧ doneBlk.phase ≠ .rand) := by
  decide +kernel

theorem witness_CollectionStateDescribesTheText :
    (textBlk.phase = .text ∨ textBlk.phase = .rand) ∧
    ((randBlk .bits128 0).phase = .text ∨ (randBlk .bits128 0).phase = .rand) ∧
    textBlk.cnt = 0 ∧ textBlk.allbin = true ∧ textBlk.allhex = true ∧ textBlk.binbuf = 0 ∧ textBlk.hexbuf = 0 := by
  decide

/-- Each clause at the ends of its range of `CNT`. -/
theorem witness_EndInTextClassifies :
    (∀ b ∈ [textBlk, binBlk 127 0, hexBlk 32 0, otherBlk 1], b.phase = .text) ∧ textBlk.cnt.val = 0 ∧
    (∀ n ∈ [(1 : Fin 257), 127], (binBlk n 0).cnt.val ≠ 0 ∧ (binBlk n 0).allbin = true ∧ (binBlk n 0).cnt.val < 128) ∧
    (∀ n ∈ [(128 : Fin 257), 255], (binBlk n 0).allbin = true ∧ 128 ≤ (binBlk n 0).cnt.val ∧
      (binBlk n 0).cnt.val < 256) ∧
    ((binBlk 256 0).allbin = true ∧ (binBlk 256 0).cnt.val = 256) ∧
    ((hexBlk 32 0).allbin = false ∧ (hexBlk 32 0).allhex = true ∧ (hexBlk 32 0).cnt.val = 32) ∧
    ((hexBlk 64 0).allbin = false ∧ (hexBlk 64 0).allhex = true ∧ (hexBlk 64 0).cnt.val = 64) ∧
    (∀ n ∈ [(1 : Fin 257), 31, 33, 63, 65, 256], (hexBlk n 0).cnt.val ≠ 0 ∧ (hexBlk n 0).allbin = false ∧
      (hexBlk n 0).allhex = true ∧ (hexBlk n 0).cnt.val ≠ 32 ∧ (hexBlk n 0).cnt.val ≠ 64) ∧
    (∀ n ∈ [(1 : Fin 257), 32, 256], (otherBlk n).cnt.val ≠ 0 ∧ (otherBlk n).allbin = false ∧
      (otherBlk n).allhex = false) := by
  refine ⟨?_, ?_, ?_, ?_, ?_, ?_, ?_, ?_, ?_⟩ <;> decide +kernel

/-- The index check itself passes and fails somewhere: V1's largest index is 3. -/
theorem witness_runsPipeline : fits .bits128 0 2048 ∧ fits .bits128 0 4 ∧ ¬ fits .bits128 0 3 := by
  simp only [fits]; decide +kernel

theorem witness_EndOfGoodTextCommits :
    (∀ b ∈ [binBlk 128 0, binBlk 255 0, binBlk 256 0, hexBlk 32 0, hexBlk 64 0],
      b.phase = .text ∧ 2048 ≤ b.wllen.toNat) ∧
    (∀ n ∈ [(128 : Fin 257), 255], (binBlk n 0).allbin = true ∧ 128 ≤ (binBlk n 0).cnt.val ∧
      (binBlk n 0).cnt.val < 256) ∧
    ((binBlk 256 0).allbin = true ∧ (binBlk 256 0).cnt.val = 256) ∧
    (∀ n ∈ [(32 : Fin 257), 64], (hexBlk n 0).allbin = false ∧ (hexBlk n 0).allhex = true ∧
      ((hexBlk n 0).cnt.val = 32 ∨ (hexBlk n 0).cnt.val = 64)) := by decide +kernel

theorem witness_EndInRandIsTheManualOverride :
    (selectBlk.phase ≠ .text ∧ selectBlk.phase ≠ .rand) ∧ (randBlk .bits128 0).phase = .rand ∧ ({ randBlk .bits128 1 with allbin := false } : Block).allbin = false ∧
    (∀ n ∈ [(0 : Fin 257), 127], (randBlk .bits128 n).allbin = true ∧
      (randBlk .bits128 n).cnt.val < (randBlk .bits128 n).width.entropyBits) ∧
    (∀ n ∈ [(0 : Fin 257), 255], (randBlk .bits256 n).allbin = true ∧
      (randBlk .bits256 n).cnt.val < (randBlk .bits256 n).width.entropyBits) ∧
    (∀ n ∈ [(128 : Fin 257), 256], (randBlk .bits128 n).width = .bits128 ∧ 128 ≤ (randBlk .bits128 n).cnt.val) ∧
    ((randBlk .bits256 256).width = .bits256 ∧ (randBlk .bits256 256).cnt.val = 256) := by decide +kernel

theorem witness_SelFixesTheWidth :
    textBlk.phase ≠ .select ∧ selectBlk.phase = .select ∧ (∀ c ∈ [0x2F#8, 0x32#8, 0x00#8], c ≠ 0x30 ∧ c ≠ 0x31) := by decide

/-- Exactly N answers ready and a source silent after them; a live source with none ready. -/
theorem witness_DrawCommitsTheDrawnBits :
    (randBlk .bits128 0).phase = .rand ∧ (randBlk .bits128 0).cnt = 0 ∧ 2048 ≤ (randBlk .bits128 0).wllen.toNat ∧
    (zeros 128).Answers (randBlk .bits128 0).width.entropyBits ∧
    (zeros 256).Answers (randBlk .bits256 0).width.entropyBits ∧
    State.reset.bits.Answers (randBlk .bits256 0).width.entropyBits := by
  simp only [BitSource.Answers]; decide +kernel

/-- The hypotheses of both parts, with an index check that passes and one that fails. -/
theorem witness_DrawRunsThePipeline :
    (randBlk .bits128 0).phase = .rand ∧ (randBlk .bits128 0).cnt = 0 ∧
    (zeros 128).Answers (randBlk .bits128 0).width.entropyBits ∧
    (textBlk.phase ≠ .rand ∨ textBlk.cnt ≠ 0) ∧
    ((randBlk .bits128 1).phase ≠ .rand ∨ (randBlk .bits128 1).cnt ≠ 0) := by
  simp only [BitSource.Answers]; decide +kernel

theorem witness_DrawHangsOnASilentSource :
    (randBlk .bits128 0).phase = .rand ∧ (randBlk .bits128 0).cnt = 0 ∧
    ¬ (zeros 127).Answers (randBlk .bits128 0).width.entropyBits ∧
    ¬ (zeros 255).Answers (randBlk .bits256 0).width.entropyBits := by
  simp only [BitSource.Answers]; decide +kernel

theorem witness_OnlyASilentSourceStops :
    step (withBits (writeState (randBlk .bits128 0) 0x004 0x6000) (zeros 127)) = .fault .bitSourceSilent :=
  fault_of (by decide +kernel)

theorem witness_TypedTextMeansNormText :
    textBlk.phase = .text ∧ textBlk.cnt = 0 ∧ textBlk.allbin = true ∧ textBlk.allhex = true ∧ textBlk.binbuf = 0 ∧
    textBlk.hexbuf = 0 ∧ normText [] = .defer ∧ normText [0x67] = .error .invalidInputFormat ∧
    normText (List.replicate 128 0x30) = .entropy .bits128 0 .binText := by decide +kernel

/-- The first and last byte of the message and the bits of the checksum, for both widths. -/
theorem witness_ChecksumIsTheLeadingDigestBits :
    (0 < Width.bits128.entropyBits / 8 ∧ 15 < Width.bits128.entropyBits / 8) ∧ 31 < Width.bits256.entropyBits / 8 := by
  decide

/-- Positions on both sides of each boundary. -/
theorem witness_ConcatLayout :
    (127 < Width.bits128.entropyBits ∧ ¬ 128 < Width.bits128.entropyBits ∧ 131 < Width.bits128.totalBits ∧
      ¬ 132 < Width.bits128.totalBits) ∧
    (255 < Width.bits256.entropyBits ∧ ¬ 256 < Width.bits256.entropyBits ∧ 263 < Width.bits256.totalBits) := by decide

theorem witness_GroupsPartitionTheBitstream :
    (11 : Fin 24).val < Width.bits128.wordCount ∧ Width.bits128.wordCount ≤ (12 : Fin 24).val ∧
    (23 : Fin 24).val < Width.bits256.wordCount := by decide

theorem witness_FullWordlistNeverCorrupt :
    (∃ t, step (writeState (binBlk 128 0) 0x004 0x4000) = .next t) ∧
    2048 ≤ (writeState (binBlk 128 0) 0x004 0x4000).blk.wllen.toNat ∧
    (writeState (binBlk 128 0) 0x004 0x4000).blk.err ≠ some .wordlistCorrupt :=
  ⟨next_of (by decide +kernel), by decide, by decide⟩

theorem witness_IndicesReconstructTheBitstream : doneBlk.Inv ∧ doneBlk.phase = .done := ⟨test_done_inv, rfl⟩

/-- The identity is a wordlist of distinct words. -/
theorem witness_MnemonicDeterminesTheEntropy :
    DistinctWords (fun i : BitVec 11 => i) ∧ doneBlk.Inv ∧ doneBlk.phase = .done ∧
    doneBlk.mnemonic (fun i => i) = ({ doneBlk with wsel := 5 } : Block).mnemonic fun i => i :=
  ⟨fun _ _ h => h, test_done_inv, rfl, rfl⟩

/-- A run error by END and a fatal one by INIT, and every kind of error with its phase. -/
theorem witness_ErrorEntryLeavesNothingPartial :
    textBlk.err = none ∧
    errAfter .init (withProvider State.reset true true 0) = some (.fatal, some .wordlistMissing) ∧
    errAfter .init (withProvider State.reset false true 2047) = some (.fatal, some .wordlistMalformed) ∧
    errAfter .endText (hostState (binBlk 127 0) []) = some (.error, some .insufficientEntropy) ∧
    errAfter .endText (hostState (hexBlk 30 0) []) = some (.error, some .invalidHexLength) ∧
    errAfter .endText (hostState (otherBlk 32) []) = some (.error, some .invalidInputFormat) ∧
    errAfter (.sel 0x00) (hostState selectBlk []) = some (.error, some .invalidWidthSelector) ∧
    errAfter .endText (hostState { binBlk 128 0 with wllen := 3 } []) = some (.fatal, some .wordlistCorrupt) := by
  decide +kernel

theorem witness_ErrorKindsAreRaisedAsListed :
    (hostState (binBlk 127 0) []).blk.err = none ∧
    ((nextState (exec .endText (hostState (binBlk 127 0) []))).map fun t => t.blk.err) =
      some (some .insufficientEntropy) := by decide +kernel

theorem witness_ErrorIsNeverOverwritten :
    errorBlk.Inv ∧ (∃ t, step (writeState errorBlk 0x004 0x2000) = .next t) ∧
    errorBlk.err = some .insufficientEntropy :=
  ⟨test_error_inv, next_of (by decide +kernel), rfl⟩

theorem witness_ErrorIsLeftAsListed :
    (∃ t, step (writeState fatalBlk 0x004 0x2000) = .next t) ∧ (∃ t, step (hostState fatalBlk [.hardReset]) = .next t) ∧
    fatalBlk.phase = .fatal ∧ (∃ t, step (writeState errorBlk 0x004 0x2000) = .next t) ∧ errorBlk.phase = .error ∧
    Instr.init ≠ .nop ∧ Instr.init ≠ .clear :=
  ⟨next_of (by decide +kernel), next_of (by decide +kernel), rfl, next_of (by decide +kernel), rfl, by decide, by decide⟩

theorem witness_StepKeepsTheInvariants :
    textBlk.Inv ∧ ∃ t, step (writeState textBlk 0x004 0x3066) = .next t :=
  ⟨test_text_inv, next_of (by decide +kernel)⟩

theorem witness_PhaseTransitionsAreThoseListed :
    runsCommand (writeState (binBlk 128 0) 0x004 0x4000) .endText ∧
    ∃ t, step (writeState (binBlk 128 0) 0x004 0x4000) = .next t :=
  ⟨⟨0x4000, [], rfl, by decide⟩, next_of (by decide +kernel)⟩

theorem witness_CmderrIsSticky :
    (∃ t, step (writeState { textBlk with cmderr := true } 0x004 0x2000) = .next t) ∧
    ({ textBlk with cmderr := true } : Block).cmderr = true :=
  ⟨next_of (by decide +kernel), rfl⟩

theorem witness_ResultsStayInDone :
    (∃ t, step (readState doneBlk 0x064) = .next t) ∧ (∃ t, step (writeState doneBlk 0x004 0x2000) = .next t) ∧
    doneBlk.phase = .done :=
  ⟨next_of (by decide +kernel), next_of (by decide +kernel), rfl⟩

theorem witness_WordlistStatusIsLatchedOnce :
    textBlk.Inv ∧ (∃ t, step (writeState textBlk 0x004 0x4000) = .next t) ∧ textBlk.wlchecked = true :=
  ⟨test_text_inv, next_of (by decide +kernel), rfl⟩

theorem witness_WselChangesOnlyAsListed :
    (∃ t, step (writeState textBlk 0x018 11) = .next t) ∧ (∃ t, step (writeState textBlk 0x004 0x2000) = .next t) :=
  ⟨next_of (by decide +kernel), next_of (by decide +kernel)⟩

theorem witness_NothingOfTheRunSurvives :
    (∃ t, exec .clear (hostState doneBlk []) = .next t) ∧ (doneBlk.phase ≠ .reset ∧ doneBlk.phase ≠ .fatal) ∧
    (((nextState (exec .endText (hostState (hexBlk 30 1) []))).map fun t => t.blk.err) =
      some (some .invalidHexLength)) ∧ (hexBlk 30 1).err = none :=
  ⟨next_of (by decide +kernel), by decide +kernel, by decide +kernel, rfl⟩

/-- Two states that differ in every hidden element, before a read. -/
theorem witness_HiddenStateShowsOnlyThroughEnd :
    sameButHidden (readState (binBlk 3 0) 0x014)
      (readState { binBlk 3 7 with allbin := false, allhex := false, hexbuf := 9 } 0x014) ∧
    ¬ runsCommand (readState (binBlk 3 0) 0x014) .endText := by
  refine ⟨rfl, ?_⟩
  rintro ⟨v, rest, h, -⟩
  cases h

theorem witness_CommandsTouchTheBlockAlone :
    (∃ t, exec .draw (withBits (hostState (randBlk .bits128 0) []) (zeros 128)) = .next t) ∧
    ∃ t, exec .nop State.reset = .next t :=
  ⟨next_of (by decide +kernel), next_of (by decide +kernel)⟩

/-- The first and last address of each hole, a misaligned one, and the accepted neighbours. -/
theorem witness_AccessesAreRefusedAsListed :
    (∀ a ∈ [0x001#12, 0x022#12, 0x068#12, 0x07C#12, 0x0A4#12, 0x0FC#12, 0x160#12, 0xFFC#12, 0x004#12],
      refusedR69 .read a) ∧
    (∀ a ∈ [0x000#12, 0x008#12, 0x064#12, 0x080#12, 0x0A0#12, 0x100#12, 0x15C#12, 0x018#12], ¬ refusedR69 .read a) ∧
    (∀ a ∈ [0x000#12, 0x008#12, 0x020#12, 0x15C#12, 0x068#12], refusedR69 .write a) ∧
    (∀ a ∈ [0x004#12, 0x018#12], ¬ refusedR69 .write a) ∧
    (writeState textBlk 0x020 0).pending = .write 0x020 0 :: [] ∧
    (readState textBlk 0x15C).pending = .read 0x15C :: [] := by
  refine ⟨?_, ?_, ?_, ?_, rfl, rfl⟩ <;> simp [refusedR69]

theorem witness_WselAndTheWordlistPort :
    (writeState textBlk 0x018 0xFFFFFFFF).pending = .write 0x018 0xFFFFFFFF :: [] ∧
    (readState textBlk 0x018).pending = .read 0x018 :: [] ∧
    doneBlk.Inv ∧ Block.wlEn { doneBlk with wsel := 11 } = true ∧ (11 : Fin 24).val = (11#5).toNat ∧
    Block.wlEn { doneBlk with wsel := 12 } = false :=
  ⟨rfl, rfl, test_done_inv, by decide +kernel, rfl, by decide +kernel⟩

/-- The first and last word of each register array are the next read. -/
theorem witness_WideRegistersReadMostSignificantWordFirst :
    (∀ w ∈ [0, 7], w < 8 ∧
      (readState doneBlk (BitVec.ofNat 12 (0x020 + 4 * w))).pending = .read (BitVec.ofNat 12 (0x020 + 4 * w)) :: [] ∧
      (readState doneBlk (BitVec.ofNat 12 (0x040 + 4 * w))).pending = .read (BitVec.ofNat 12 (0x040 + 4 * w)) :: [] ∧
      (readState doneBlk (BitVec.ofNat 12 (0x080 + 4 * w))).pending = .read (BitVec.ofNat 12 (0x080 + 4 * w)) :: []) ∧
    (readState doneBlk 0x0A0).pending = .read 0x0A0 :: [] := by simp [readState, hostState]

theorem witness_IndexReads :
    (∀ k ∈ [(0 : Fin 24), 11, 12, 23], (readState doneBlk (BitVec.ofNat 12 (0x100 + 4 * k.val))).pending =
      .read (BitVec.ofNat 12 (0x100 + 4 * k.val)) :: []) ∧
    (readState doneBlk 0x064).pending = .read 0x064 :: [] ∧
    (doneBlk.phase = .done ∧ (11 : Fin 24).val < doneBlk.width.wordCount ∧
      doneBlk.width.wordCount ≤ (12 : Fin 24).val ∧ doneBlk.width = .bits128) ∧
    (doneBlk256.phase = .done ∧ doneBlk256.width = .bits256 ∧ (23 : Fin 24).val < doneBlk256.width.wordCount) ∧
    textBlk.phase ≠ .done := by
  refine ⟨fun k _ => rfl, rfl, ?_, ?_, ?_⟩ <;> decide +kernel

theorem witness_ChecksumAndGeometryReads :
    (readState doneBlk 0x060).pending = .read 0x060 :: [] ∧ (readState doneBlk 0x01C).pending = .read 0x01C :: [] := ⟨rfl, rfl⟩

theorem witness_StatusReads :
    ∀ a ∈ [0x000#12, 0x008#12, 0x00C#12, 0x010#12, 0x014#12], (readState doneBlk a).pending = .read a :: [] := by
  simp [readState, hostState]

theorem witness_ResultsReadZeroOutsideDone :
    textBlk.Inv ∧ textBlk.phase ≠ .done ∧
    (∀ a ∈ [0x01C#12, 0x020#12, 0x15C#12], (readState textBlk a).pending = .read a :: [] ∧ ¬ refusedR69 .read a ∧
      0x01C ≤ a.toNat) := by
  refine ⟨test_text_inv, by decide, ?_⟩
  simp [refusedR69, readState, hostState]

theorem witness_MnemonicIsReadThroughWsel :
    textBlk.phase ≠ .done ∧ doneBlk.phase = .done ∧ (0 : Fin 24).val < doneBlk.width.wordCount ∧
    (11 : Fin 24).val < doneBlk.width.wordCount := by decide +kernel

theorem witness_ProviderEventTouchesTheProviderAlone :
    (hostState Block.reset [.provider ⟨true, false, 0⟩]).pending = .provider ⟨true, false, 0⟩ :: [] ∧
    (hostState textBlk [.provider ⟨true, false, 0⟩]).pending = .provider ⟨true, false, 0⟩ :: [] := ⟨rfl, rfl⟩

/-- Two providers, before the END of a text. -/
theorem witness_ProviderIsReadByInitOnly :
    sameButProvider (writeState (binBlk 128 0) 0x004 0x4000)
      (withProvider (writeState (binBlk 128 0) 0x004 0x4000) true true 7) ∧
    ¬ runsCommand (writeState (binBlk 128 0) 0x004 0x4000) .init := by
  refine ⟨rfl, ?_⟩
  rintro ⟨v, rest, h, hd⟩
  cases h
  revert hd
  decide

end Sys2Proof.Tests
end

section
/-!
PROOF. The scope statements (00_scope.md).
-/

namespace Sys2Proof.Machine

/-- The companion of `step_cons`: the block takes no step by itself (00_scope.md R17, log 2). -/
theorem step_nil {s : State} (h : s.pending = []) : step s = .next s := by simp [step, runNext, h]

/-- Settles O10, by the empty-queue equation of `step`. -/
theorem waitsWithNothingPending : Obligations.WaitsWithNothingPending :=
  fun _ hp => step_nil hp

end Sys2Proof.Machine
end

section
/-!
PROOF. The invariants of 10_state.md R41 cut into four parts, each kept by every move of `step_move`.
-/

namespace Sys2Proof.Machine

/-! ### The buffers after one character, most significant bit first -/

theorem binbufAfter_getMsbD (buf : BitVec 256) (n : Nat) (c : Char8) {p : Nat} (hp : p < 256) :
    (binbufAfter buf n c).getMsbD p =
      if p = n ∧ (c = 0x30 ∨ c = 0x31) then c.getLsbD 0 else buf.getMsbD p := by
  have hpos : (n < 256 ∧ (c = 0x30 ∨ c = 0x31) ∧ 256 - 1 - p = 255 - n) ↔ (p = n ∧ (c = 0x30 ∨ c = 0x31)) :=
    ⟨fun ⟨_, hc, _⟩ => ⟨by omega, hc⟩, fun ⟨_, hc⟩ => ⟨by omega, hc, by omega⟩⟩
  rw [getMsbD_eq_getLsbD _ hp, getMsbD_eq_getLsbD _ hp, binbufAfter_getLsbD _ _ _ _ (by omega)]
  simp only [hpos]

/-- Bit `j` of nibble `q`. -/
theorem hexbufAfter_getMsbD (buf : BitVec 256) (n : Nat) (c : Char8) {q j : Nat} (hq : q < 64) (hj : j < 4) :
    (hexbufAfter buf n c).getMsbD (4 * q + j) =
      if q = n ∧ hexval c ≠ none then ((hexval c).getD 0).getMsbD j else buf.getMsbD (4 * q + j) := by
  have hp : 4 * q + j < 256 := by omega
  rw [getMsbD_eq_getLsbD _ hp, getMsbD_eq_getLsbD buf hp, hexbufAfter_getLsbD _ _ _ _ (by omega)]
  rcases hexval c with _ | h
  · simp
  · have hpos : (n < 64 ∧ 252 - 4 * n ≤ 256 - 1 - (4 * q + j) ∧ 256 - 1 - (4 * q + j) ≤ 255 - 4 * n) ↔ q = n := by
      omega
    simp only [hpos, ne_eq, reduceCtorEq, not_false_eq_true, and_true, Option.getD_some]
    split
    · subst q
      rw [getMsbD_eq_getLsbD h hj]
      exact getLsbD_congr h (by omega)
    · rfl

theorem ishex_of_isbin {c : Char8} (h : isbin c = true) : ishex c = true := by
  rcases (isbin_iff c).1 h with rfl | rfl <;> decide

/-! ### The parts of the invariant -/

/-- The collection state is empty, as in a phase that collects nothing (R41 (b)). -/
def Block.HoldsNoText (b : Block) : Prop :=
  b.cnt = 0 ∧ b.allbin = true ∧ b.allhex = true ∧ b.binbuf = 0 ∧ b.hexbuf = 0

/-- The result state is empty, as in a phase without a result (R41 (a)). -/
def Block.HoldsNoResult (b : Block) : Prop :=
  b.ent = 0 ∧ b.dig = 0 ∧ b.cs = 0 ∧ b.full = 0 ∧ b.idx = Vector.replicate 24 0 ∧ b.src = .noSource

theorem Block.reset_holdsNoText : Block.reset.HoldsNoText := ⟨rfl, rfl, rfl, rfl, rfl⟩
theorem Block.reset_holdsNoResult : Block.reset.HoldsNoResult := ⟨rfl, rfl, rfl, rfl, rfl, rfl⟩
theorem Block.openRun_holdsNoText (b : Block) : b.openRun.HoldsNoText := ⟨rfl, rfl, rfl, rfl, rfl⟩
theorem Block.openRun_holdsNoResult (b : Block) : b.openRun.HoldsNoResult := ⟨rfl, rfl, rfl, rfl, rfl, rfl⟩
theorem Block.raise_holdsNoText (e : ErrKind) (b : Block) : (b.raise e).HoldsNoText := ⟨rfl, rfl, rfl, rfl, rfl⟩
theorem Block.raise_holdsNoResult (e : ErrKind) (b : Block) : (b.raise e).HoldsNoResult :=
  ⟨rfl, rfl, rfl, rfl, rfl, rfl⟩
theorem Block.commit_holdsNoText (r : Results) (b : Block) : (b.commit r).HoldsNoText := ⟨rfl, rfl, rfl, rfl, rfl⟩

/-- What `Block.Inv` says of the collection state (R27 to R29, R41 (b)). -/
structure Block.CollectionInv (b : Block) : Prop where
  noText : b.phase ≠ .text → b.phase ≠ .rand → b.HoldsNoText
  noCharacter : b.cnt = 0 → b.allbin = true ∧ b.allhex = true
  binIsHex : b.allbin = true → b.allhex = true
  binTail : ∀ p < 256, b.cnt.val ≤ p → b.binbuf.getMsbD p = false
  hexTail : ∀ p < 256, 4 * b.cnt.val ≤ p → b.hexbuf.getMsbD p = false

/-- What `Block.Inv` says of the width and the error (R41 (c), (d)). -/
structure Block.ControlInv (b : Block) : Prop where
  widthKnown : b.wvalid = true ↔ (b.phase = .rand ∨ b.phase = .done)
  widthUnknown : b.wvalid = false → b.width = .bits128
  errorPhase : b.err.map ErrKind.phase = if b.phase = .error ∨ b.phase = .fatal then some b.phase else none

/-- What `Block.Inv` says of the latched wordlist status (R41 (e), (g)). -/
structure Block.WordlistInv (b : Block) : Prop where
  checked : b.wlchecked = false ↔ b.phase = .reset
  unchecked : b.wlchecked = false → b.wllen = 0 ∧ b.wlmissing = false ∧ b.wlmalformed = false
  goodVerdict : b.phase ≠ .reset → b.phase ≠ .fatal → b.wlmissing = false ∧ b.wlmalformed = false

/-- What `Block.Inv` says of the results (R23, R41 (a), (f)). -/
structure Block.ResultInv (b : Block) : Prop where
  noResult : b.phase ≠ .done → b.HoldsNoResult
  results : b.phase = .done → b.ResultsAgree
  sourceKnown : b.phase = .done → b.src ≠ .noSource

theorem Block.inv_iff (b : Block) : b.Inv ↔ b.CollectionInv ∧ b.ControlInv ∧ b.WordlistInv ∧ b.ResultInv where
  mp h := ⟨{ h with }, { h with }, { h with }, { h with }⟩
  mpr := fun ⟨c, k, w, r⟩ => { c, k, w, r with }

/-! ### The collection state -/

theorem Block.HoldsNoText.collectionInv {b : Block} (h : b.HoldsNoText) : b.CollectionInv := by
  have ⟨_, hbin, hhex, hbb, hhb⟩ := h
  exact { noText := fun _ _ => h, noCharacter := fun _ => ⟨hbin, hhex⟩, binIsHex := fun _ => hhex
          binTail := by simp [hbb], hexTail := by simp [hhb] }

/-- A buffer whose every bit is past the text is zero. -/
theorem eq_zero_of_tail {buf : BitVec 256} (h : ∀ p < 256, buf.getMsbD p = false) : buf = 0 :=
  eq_of_getMsbD fun p hp => by simp [h p hp]

/-- With no character collected the whole collection state is empty, also in TEXT and RAND. -/
theorem Block.CollectionInv.holdsNoText {b : Block} (h : b.CollectionInv) (hc : b.cnt = 0) : b.HoldsNoText := by
  obtain ⟨hbin, hhex⟩ := h.noCharacter hc
  have h0 : b.cnt.val = 0 := by simp [hc]
  exact ⟨hc, hbin, hhex, eq_zero_of_tail fun p hp => h.binTail p hp (by omega),
    eq_zero_of_tail fun p hp => h.hexTail p hp (by omega)⟩

/-- One more character keeps the bits past the text 0, at a full buffer too (40_normalizer.md R121). -/
theorem Block.CollectionInv.putChar {b : Block} (h : b.CollectionInv) (hp : b.phase = .text ∨ b.phase = .rand)
    (c : Char8) : (b.putChar c).CollectionInv where
  noText ht hr := absurd hp (not_or.2 ⟨ht, hr⟩)
  noCharacter hc := by
    have := congrArg Fin.val hc
    simp [countAfter] at this
  binIsHex hb := by
    simp only [Block.putChar_allbin, allbinAfter, Bool.and_eq_true] at hb
    simp [allhexAfter, h.binIsHex hb.1, ishex_of_isbin hb.2]
  binTail p hp hn := by
    simp only [Block.putChar_cnt, countAfter] at hn
    rw [Block.putChar_binbuf, binbufAfter_getMsbD _ _ _ hp, if_neg (by omega)]
    exact h.binTail p hp (by omega)
  hexTail p hp hn := by
    simp only [Block.putChar_cnt, countAfter] at hn
    have hpos : p = 4 * (p / 4) + p % 4 := by omega
    rw [Block.putChar_hexbuf, hpos, hexbufAfter_getMsbD _ _ _ (by omega) (by omega), if_neg (by omega), ← hpos]
    exact h.hexTail p hp (by omega)

/-- Every move keeps the collection part; it either leaves the collection state alone, empties it, or puts a
character. -/
theorem BlockMove.collectionInv {p : ProviderPort} {b b' : Block} (m : BlockMove p b b') (h : b.CollectionInv) :
    b'.CollectionInv := by
  cases m with
  | stay => exact h
  | refused => exact { h with }
  | wsel v => exact { h with }
  | hardReset => exact Block.reset_holdsNoText.collectionInv
  | initFails e => exact (Block.raise_holdsNoText e _).collectionInv
  | initGood hp => exact Block.HoldsNoText.collectionInv (h.noText (by simp [hp]) (by simp [hp]))
  | openRun => exact b.openRun_holdsNoText.collectionInv
  | putChar c hp => exact h.putChar hp c
  | defer hp hc => exact Block.HoldsNoText.collectionInv (h.holdsNoText hc)
  | select w hp => exact Block.HoldsNoText.collectionInv (h.noText (by simp [hp]) (by simp [hp]))
  | runError e => exact (Block.raise_holdsNoText e b).collectionInv
  | corrupt => exact (Block.raise_holdsNoText _ b).collectionInv
  | commit => exact (Block.commit_holdsNoText _ b).collectionInv

/-! ### The width and the error -/

/-- The error sequence leaves no width and the kind's own phase, whatever was before (60_exceptions.md R250). -/
theorem Block.raise_controlInv (e : ErrKind) (b : Block) : (b.raise e).ControlInv := by
  constructor <;> rcases e.phase_eq with he | he <;> simp [he]

theorem Block.reset_controlInv : Block.reset.ControlInv := by constructor <;> simp [Block.reset]

/-- Outside ERROR and FATAL there is no error. -/
theorem Block.ControlInv.err_eq_none {b : Block} (h : b.ControlInv) (he : b.phase ≠ .error) (hf : b.phase ≠ .fatal) :
    b.err = none := by simpa [he, hf] using h.errorPhase

/-- Outside RAND and DONE no width is chosen. -/
theorem Block.ControlInv.wvalid_eq_false {b : Block} (h : b.ControlInv) (hr : b.phase ≠ .rand) (hd : b.phase ≠ .done) :
    b.wvalid = false := by simpa [hr, hd] using h.widthKnown

/-- Every move keeps the control part. -/
theorem BlockMove.controlInv {p : ProviderPort} {b b' : Block} (m : BlockMove p b b') (h : b.ControlInv) :
    b'.ControlInv := by
  cases m with
  | stay => exact h
  | refused => exact { h with }
  | wsel v => exact { h with }
  | hardReset => exact Block.reset_controlInv
  | initFails e => exact Block.raise_controlInv e _
  | initGood hp =>
    have hw : b.wvalid = false := h.wvalid_eq_false (by simp [hp]) (by simp [hp])
    constructor <;> simp [hw, h.widthUnknown hw, h.err_eq_none, hp]
  | openRun => constructor <;> simp
  | putChar c => exact { h with }
  | defer hp =>
    have hw : b.wvalid = false := h.wvalid_eq_false (by simp [hp]) (by simp [hp])
    constructor <;> simp [hw, h.widthUnknown hw, h.err_eq_none, hp]
  | select w hp => constructor <;> simp [h.err_eq_none, hp]
  | runError e => exact Block.raise_controlInv e b
  | corrupt => exact Block.raise_controlInv _ b
  | commit w e src _ hp =>
    have he : b.err = none := by
      rcases hp with ⟨hp, -⟩ | ⟨hp, -⟩ <;> exact h.err_eq_none (by simp [hp]) (by simp [hp])
    constructor <;> simp [he]

/-! ### The wordlist status -/

theorem Block.reset_wordlistInv : Block.reset.WordlistInv := by constructor <;> simp [Block.reset]

/-- Between INIT and reset the `WL*` elements and the good verdict stay (R36). -/
theorem Block.WordlistInv.ofRun {b b' : Block} (h : b.WordlistInv) (hr : b.phase ≠ .reset) (hf : b.phase ≠ .fatal)
    (hr' : b'.phase ≠ .reset) (hc : b'.wlchecked = b.wlchecked) (hm : b'.wlmissing = b.wlmissing)
    (hl : b'.wlmalformed = b.wlmalformed) : b'.WordlistInv := by
  have hchk : b'.wlchecked ≠ false := hc ▸ mt h.checked.1 hr
  exact { checked := iff_of_false hchk hr', unchecked := fun hu => absurd hu hchk
          goodVerdict := fun _ _ => by rw [hm, hl]; exact h.goodVerdict hr hf }

theorem ErrKind.phase_ne_reset (e : ErrKind) : e.phase ≠ .reset := by cases e <;> simp [ErrKind.phase]

/-- Every move keeps the wordlist part. -/
theorem BlockMove.wordlistInv {p : ProviderPort} {b b' : Block} (m : BlockMove p b b') (h : b.WordlistInv) :
    b'.WordlistInv := by
  cases m with
  | stay => exact h
  | refused => exact { h with }
  | wsel v => exact { h with }
  | hardReset => exact Block.reset_wordlistInv
  | initFails e hp he =>
    have hq : e.phase = .fatal := by rcases he with ⟨-, rfl⟩ | ⟨-, -, rfl⟩ <;> rfl
    constructor <;> simp [hq]
  | initGood hp hm hl => constructor <;> simp [hm, hl]
  | openRun h0 h6 => exact h.ofRun h0 h6 (by simp) rfl rfl rfl
  | putChar c hp => exact { h with }
  | defer hp => exact h.ofRun (by simp [hp]) (by simp [hp]) (by simp) rfl rfl rfl
  | select w hp => exact h.ofRun (by simp [hp]) (by simp [hp]) (by simp) rfl rfl rfl
  | runError e he =>
    rcases he with ⟨hp, -⟩ | ⟨hp, -⟩ | ⟨hp, -⟩ <;>
      exact h.ofRun (by simp [hp]) (by simp [hp]) e.phase_ne_reset rfl rfl rfl
  | corrupt w e src hp =>
    have hq := ErrKind.phase_ne_reset .wordlistCorrupt
    rcases hp with hp | hp <;> exact h.ofRun (by simp [hp]) (by simp [hp]) hq rfl rfl rfl
  | commit w e src _ hp =>
    rcases hp with ⟨hp, -⟩ | ⟨hp, -⟩ <;> exact h.ofRun (by simp [hp]) (by simp [hp]) (by simp) rfl rfl rfl

/-! ### The results -/

theorem Block.HoldsNoResult.resultInv {b : Block} (h : b.HoldsNoResult) (hp : b.phase ≠ .done) : b.ResultInv :=
  ⟨fun _ => h, fun hd => absurd hd hp, fun hd => absurd hd hp⟩

/-- The committed results belong together: the commit's range check is the one of R41 (f). -/
theorem Block.commit_resultsAgree {w : Width} {e : BitVec 256} {src : Src} {b : Block} (ha : firstBits w e = e)
    (hr : inRange w (resultsOf hash256 w e src).full b.wllen = true) :
    (b.commit (resultsOf hash256 w e src)).ResultsAgree where
  aligned := ha
  digest := rfl
  full := rfl
  checksum := rfl
  groups k := groups_getElem w _ k.val k.isLt
  range k hk := by
    have hg : (b.commit (resultsOf hash256 w e src)).idx[k] = group (resultsOf hash256 w e src).full k.val :=
      (groups_getElem w _ k.val k.isLt).trans (if_pos hk)
    rw [hg]
    exact inRange_iff.1 hr k.val hk

/-- Every move keeps the result part; only a commit puts results in. -/
theorem BlockMove.resultInv {p : ProviderPort} {b b' : Block} (m : BlockMove p b b') (h : b.ResultInv) :
    b'.ResultInv := by
  cases m with
  | stay => exact h
  | refused => exact { h with results := fun hd => { h.results hd with } }
  | wsel v => exact { h with results := fun hd => { h.results hd with } }
  | hardReset => exact Block.reset_holdsNoResult.resultInv (by decide)
  | initFails e => exact (Block.raise_holdsNoResult e _).resultInv e.phase_ne_done
  | initGood hp => exact Block.HoldsNoResult.resultInv (h.noResult (by simp [hp])) (by simp)
  | openRun => exact b.openRun_holdsNoResult.resultInv (by simp)
  | putChar c hp =>
    have hd : b.phase ≠ .done := by rcases hp with hp | hp <;> simp [hp]
    exact Block.HoldsNoResult.resultInv (h.noResult hd) hd
  | defer hp => exact Block.HoldsNoResult.resultInv (h.noResult (by simp [hp])) (by simp)
  | select w hp => exact Block.HoldsNoResult.resultInv (h.noResult (by simp [hp])) (by simp)
  | runError e => exact (Block.raise_holdsNoResult e b).resultInv e.phase_ne_done
  | corrupt => exact (Block.raise_holdsNoResult _ b).resultInv (ErrKind.phase_ne_done .wordlistCorrupt)
  | commit w e src ha hp hr =>
    have hs : src ≠ .noSource := by rcases hp with ⟨-, rfl | rfl⟩ | ⟨-, -, rfl | rfl⟩ <;> simp
    exact ⟨fun hd => absurd rfl hd, fun _ => Block.commit_resultsAgree ha hr, fun _ => hs⟩

/-! ### The whole invariant -/

theorem BlockMove.inv {p : ProviderPort} {b b' : Block} (m : BlockMove p b b') (h : b.Inv) : b'.Inv := by
  obtain ⟨hc, hk, hw, hr⟩ := b.inv_iff.1 h
  exact b'.inv_iff.2 ⟨m.collectionInv hc, m.controlInv hk, m.wordlistInv hw, m.resultInv hr⟩

/-- Settles O39: a step changes the block by a move, and every move keeps each part of the invariant. -/
theorem stepKeepsTheInvariants : Obligations.StepKeepsTheInvariants :=
  fun _ _ h hs => (step_move hs).inv h

theorem Block.reset_inv : Block.reset.Inv :=
  Block.reset.inv_iff.2 ⟨Block.reset_holdsNoText.collectionInv, Block.reset_controlInv, Block.reset_wordlistInv,
    Block.reset_holdsNoResult.resultInv (by decide)⟩

/-- Settles O40: nothing is collected and nothing is computed at reset, and no verdict is latched. -/
theorem resetMeetsTheInvariants : Obligations.ResetMeetsTheInvariants := Block.reset_inv

/-- Settles O7: every element as the table of 10_state.md R43 has it. -/
theorem resetStateValues : Obligations.ResetStateValues := rfl

end Sys2Proof.Machine
end

section
/-!
PROOF. The hidden state of 10_state.md R42: every command but END takes two states that differ only there to two that differ only there.
-/

namespace Sys2Proof.Machine

open Sys2Proof.Claims
open Host (Outcome)

/-- The block with other hidden state (R42). -/
def Block.withHidden (b : Block) (ab ah : Bool) (bb hb : BitVec 256) : Block :=
  { b with allbin := ab, allhex := ah, binbuf := bb, hexbuf := hb }

/-- Two blocks that agree on everything but the hidden state. -/
def Block.Alike (b c : Block) : Prop := c = b.withHidden c.allbin c.allhex c.binbuf c.hexbuf

theorem Block.Alike.exists_withHidden {b c : Block} (h : b.Alike c) : ∃ ab ah bb hb, c = b.withHidden ab ah bb hb :=
  ⟨_, _, _, _, h⟩

/-- Two answers of a step that show the same: the same fault, or next states that differ only in the hidden state. -/
def AnswersAlike (o₁ o₂ : Outcome State Fault Refusal) : Prop :=
  (∃ t₁ t₂, o₁ = .next t₁ ∧ o₂ = .next t₂ ∧ sameButHidden t₁ t₂) ∨ ∃ r, o₁ = .fault r ∧ o₂ = .fault r

theorem sameButHidden_withBlk {b c : Block} (s : State) (h : b.Alike c) :
    sameButHidden (s.withBlk b) (s.withBlk c) := congrArg s.withBlk h

/-- `sameButHidden` is `Block.Alike` of the blocks and equality of the rest. -/
theorem sameButHidden_iff {s t : State} : sameButHidden s t ↔ ∃ c, s.blk.Alike c ∧ t = s.withBlk c where
  mp h := ⟨s.blk.withHidden t.blk.allbin t.blk.allhex t.blk.binbuf t.blk.hexbuf, rfl, h⟩
  mpr := fun ⟨_, hc, ht⟩ => ht ▸ sameButHidden_withBlk s hc

theorem AnswersAlike.next {s t : State} (h : sameButHidden s t) : AnswersAlike (.next s) (.next t) :=
  .inl ⟨s, t, rfl, rfl, h⟩

/-! ### The pieces -/

theorem Block.Alike.phase_eq {b c : Block} (h : b.Alike c) : c.phase = b.phase := by rw [h]; rfl
theorem Block.Alike.cnt_eq {b c : Block} (h : b.Alike c) : c.cnt = b.cnt := by rw [h]; rfl
theorem Block.Alike.width_eq {b c : Block} (h : b.Alike c) : c.width = b.width := by rw [h]; rfl
theorem Block.Alike.wllen_eq {b c : Block} (h : b.Alike c) : c.wllen = b.wllen := by rw [h]; rfl

theorem Block.Alike.setCmderr {b c : Block} (h : b.Alike c) : b.setCmderr.Alike c.setCmderr := by
  rw [h]; rfl

theorem Block.Alike.writeWsel {b c : Block} (h : b.Alike c) (v : Word32) : (b.writeWsel v).Alike (c.writeWsel v) := by
  rw [h]; rfl

/-- No register shows the hidden state. -/
theorem Block.Alike.readValue_eq {b c : Block} (h : b.Alike c) (r : Reg) : readValue c r = readValue b r := by
  rw [h]; cases r <;> rfl

/-- The pipeline overwrites the hidden state and reads none of it. -/
theorem Block.Alike.pipeline {b c : Block} (h : b.Alike c) (hash : HashFun) (w : Width) (e : BitVec 256) (src : Src) :
    (b.pipeline hash w e src).Alike (c.pipeline hash w e src) := by
  rw [pipeline_eq, pipeline_eq, h.wllen_eq]
  obtain ⟨ab, ah, bb, hb, rfl⟩ := h.exists_withHidden
  split <;> rfl

/-- Every command but END keeps the agreement: PUTC writes the hidden state, and no other command reads it. -/
theorem Block.Alike.effect {b c : Block} (h : b.Alike c) {i : Instr} (hi : i ≠ .endText) (p : ProviderPort)
    (bs : List Bool) : (effect p bs i b).Alike (effect p bs i c) := by
  cases i with
  | nop => exact h
  | init =>
    obtain ⟨ab, ah, bb, hb, rfl⟩ := h.exists_withHidden
    simp only [Machine.effect, Block.initialise]
    split
    · rfl
    split <;> rfl
  | clear => obtain ⟨ab, ah, bb, hb, rfl⟩ := h.exists_withHidden; rfl
  | putc ch => obtain ⟨ab, ah, bb, hb, rfl⟩ := h.exists_withHidden; rfl
  | endText => exact absurd rfl hi
  | sel ch =>
    obtain ⟨ab, ah, bb, hb, rfl⟩ := h.exists_withHidden
    simp only [Machine.effect, Block.select]
    split <;> rfl
  | draw =>
    simp only [Machine.effect, h.width_eq]
    exact h.pipeline _ _ _ _

/-! ### Commands, events, steps -/

/-- A command but END, run in two states that differ only in the hidden state. -/
theorem exec_answersAlike {i : Instr} (hi : i ≠ .endText) (s : State) {c : Block} (h : s.blk.Alike c) :
    AnswersAlike (exec i s) (exec i (s.withBlk c)) := by
  have hleg : legal i (s.withBlk c).blk.phase (s.withBlk c).blk.cnt = legal i s.blk.phase s.blk.cnt := by
    rw [State.withBlk_blk, h.phase_eq, h.cnt_eq]
  rcases hl : legal i s.blk.phase s.blk.cnt with _ | _
  · rw [exec_illegal hl, exec_illegal (hleg.trans hl)]
    exact .next (sameButHidden_withBlk s h.setCmderr)
  by_cases hd : i = .draw
  · subst hd
    have hbits : drawBits (s.withBlk c).blk.width.entropyBits (s.withBlk c).bits =
        drawBits s.blk.width.entropyBits s.bits := by simp [h.width_eq]
    rcases hb : drawBits s.blk.width.entropyBits s.bits with _ | ⟨bs, src⟩
    · rw [exec_draw_silent hl hb, exec_draw_silent (hleg.trans hl) (hbits.trans hb)]
      exact .inr ⟨_, rfl, rfl⟩
    · rw [exec_draw hl hb, exec_draw (hleg.trans hl) (hbits.trans hb)]
      exact .next (sameButHidden_withBlk { s with bits := src } (h.effect hi _ _))
  · rw [exec_legal hl hd, exec_legal (hleg.trans hl) hd]
    exact .next (sameButHidden_withBlk s (h.effect hi _ _))

/-- An event but the write of END to `CMD`. -/
theorem runEvent_answersAlike {e : Event} (he : ∀ v, e = .write (Reg.offset .cmd) v → decode v ≠ .command .endText)
    (s : State) {c : Block} (h : s.blk.Alike c) : AnswersAlike (runEvent e s) (runEvent e (s.withBlk c)) := by
  cases e with
  | write a v =>
    simp only [runEvent, memWrite]
    split
    · exact .next (sameButHidden_withBlk { s with herr := true, rdata := none } h.setCmderr)
    split
    · subst a
      simp only [runCommand]
      rcases hd : decode v with i | why
      · have hi : i ≠ .endText := fun hi => he v rfl (hi ▸ hd)
        exact exec_answersAlike hi (s.respond none) h
      · exact .next (sameButHidden_withBlk (s.respond none) h.setCmderr)
    · exact .next (sameButHidden_withBlk (s.respond none) (h.writeWsel v))
  | read a =>
    have hrefused : sameButHidden (s.refuseAccess (some 0)) ((s.withBlk c).refuseAccess (some 0)) :=
      sameButHidden_withBlk { s with herr := true, rdata := some 0 } h.setCmderr
    simp only [runEvent, memRead]
    rcases Reg.ofAddr a with _ | r
    · exact .next hrefused
    simp only [State.withBlk_blk, h.readValue_eq]
    split
    · exact .next hrefused
    · exact .next (sameButHidden_withBlk (s.respond (some (readValue s.blk r))) h)
  | hardReset => exact .next rfl
  | provider p => exact .next (sameButHidden_withBlk { s with provider := p } h)

/-- Settles O47: the two steps take the same event, and each event but END's keeps the agreement. -/
theorem hiddenStateShowsOnlyThroughEnd : Obligations.HiddenStateShowsOnlyThroughEnd := by
  intro s₁ s₂ h hend
  obtain ⟨c, hc, rfl⟩ := sameButHidden_iff.1 h
  show AnswersAlike (step s₁) (step (s₁.withBlk c))
  rcases hp : s₁.pending with _ | ⟨e, rest⟩
  · rw [step_nil hp, step_nil (s := s₁.withBlk c) hp]
    exact .next h
  · rw [step_cons hp, step_cons (s := s₁.withBlk c) hp]
    exact runEvent_answersAlike (fun v hv hd => hend ⟨v, rest, hv ▸ hp, hd⟩) (s₁.accept rest) hc

end Sys2Proof.Machine
end

section
/-!
PROOF. The collection state after a whole text (10_state.md R26 to R29), by induction on the text.
-/

namespace Sys2Proof.Machine

open Sys2Proof.Claims

/-- What the collection state says of the text `t` collected so far (10_state.md R26 to R29). -/
structure Block.Records (b : Block) (t : List Char8) : Prop where
  cnt : b.cnt.val = min t.length 256
  allbin : b.allbin = true ↔ ∀ c ∈ t, c = 0x30 ∨ c = 0x31
  allhex : b.allhex = true ↔ ∀ c ∈ t, hexval c ≠ none
  binbuf : b.allbin = true → ∀ p < 256, b.binbuf.getMsbD p = (t.getD p 0x30).getLsbD 0
  hexbuf : b.allhex = true → ∀ p < 64, ∀ j < 4,
    b.hexbuf.getMsbD (4 * p + j) = ((hexval (t.getD p 0x30)).getD 0).getMsbD j

theorem Block.HoldsNoText.records {b : Block} (h : b.HoldsNoText) : b.Records [] := by
  obtain ⟨hc, hbin, hhex, hbb, hhb⟩ := h
  constructor
  case cnt => simp [hc]
  case allbin => simp [hbin]
  case allhex => simp [hhex]
  case binbuf => simp [hbb]
  case hexbuf =>
    intro _ p _ j _
    have hzero : hexval 48#8 = some 0 := by decide
    simp [hhb, hzero]

theorem getD_append_singleton (t : List Char8) (c d : Char8) (p : Nat) :
    (t ++ [c]).getD p d = if p = t.length then c else t.getD p d := by
  rcases Nat.lt_trichotomy p t.length with h | h | h
  · rw [if_neg (by omega), List.getD_append _ _ _ _ h]
  · rw [if_pos h, List.getD_append_right _ _ _ _ (by omega)]
    simp [h]
  · rw [if_neg (by omega), List.getD_eq_default _ _ (by simp; omega), List.getD_eq_default _ _ (by omega)]

/-- PUTC's one write per buffer appends the character to the recorded text (40_normalizer.md R121). Past the end of a
buffer the character leaves the buffer as it is. -/
theorem Block.Records.putChar {b : Block} {t : List Char8} (h : b.Records t) (c : Char8) :
    (b.putChar c).Records (t ++ [c]) where
  cnt := by simp only [Block.putChar_cnt, countAfter, h.cnt, List.length_append, List.length_singleton]; omega
  allbin := by
    simp [allbinAfter, isbin_iff, h.allbin, or_imp, forall_and]
  allhex := by
    simp [allhexAfter, ishex, Option.isSome_iff_ne_none, h.allhex, or_imp, forall_and]
  binbuf hb p hp := by
    simp only [Block.putChar_allbin, allbinAfter, Bool.and_eq_true] at hb
    have hpos : p = b.cnt.val ↔ p = t.length := by rw [h.cnt]; omega
    rw [Block.putChar_binbuf, binbufAfter_getMsbD _ _ _ hp, h.binbuf hb.1 p hp, getD_append_singleton]
    simp only [hpos, (isbin_iff c).1 hb.2, and_true]
    split <;> rfl
  hexbuf hh p hp j hj := by
    simp only [Block.putChar_allhex, allhexAfter, ishex, Bool.and_eq_true, Option.isSome_iff_ne_none] at hh
    have hpos : p = b.cnt.val ↔ p = t.length := by rw [h.cnt]; omega
    rw [Block.putChar_hexbuf, hexbufAfter_getMsbD _ _ _ hp hj, h.hexbuf hh.1 p hp j hj, getD_append_singleton]
    simp only [hpos, hh.2, ne_eq, not_false_eq_true, and_true]
    split <;> rfl

/-- The block after the characters of a text, in order. -/
def Block.putText (t : List Char8) (b : Block) : Block := t.foldl (fun b c => b.putChar c) b

@[simp] theorem Block.putText_nil (b : Block) : b.putText [] = b := rfl

@[simp] theorem Block.putText_cons (c : Char8) (t : List Char8) (b : Block) :
    b.putText (c :: t) = (b.putChar c).putText t := rfl

theorem Block.putText_concat (t : List Char8) (c : Char8) (b : Block) :
    b.putText (t ++ [c]) = (b.putText t).putChar c := by simp [Block.putText]

/-- In TEXT and RAND every PUTC of a text completes, and the whole text has the effect `Block.putText`. -/
theorem putAll_eq (t : List Char8) {s : State} (hp : s.blk.phase = .text ∨ s.blk.phase = .rand) :
    putAll t s = .next (s.withBlk (s.blk.putText t)) := by
  induction t generalizing s with
  | nil => rfl
  | cons c t ih =>
    have hl : legal (.putc c) s.blk.phase s.blk.cnt = true := by simpa [legal] using hp
    have hput : exec (.putc c) s = .next (s.withBlk (s.blk.putChar c)) := exec_legal hl (by simp)
    simp only [putAll, hput, Block.putText_cons]
    exact ih (s := s.withBlk (s.blk.putChar c)) hp

/-- Typing a text into an empty collection records it. -/
theorem Block.HoldsNoText.putText_records {b : Block} (h : b.HoldsNoText) (t : List Char8) :
    (b.putText t).Records t := by
  induction t using List.reverseRecOn with
  | nil => exact h.records
  | append_singleton t c ih =>
    rw [Block.putText_concat]
    exact ih.putChar c

/-- A text changes the collection state alone. -/
theorem Block.putText_frame (t : List Char8) (b : Block) :
    b.putText t = { b with
      binbuf := (b.putText t).binbuf, hexbuf := (b.putText t).hexbuf, allbin := (b.putText t).allbin
      allhex := (b.putText t).allhex, cnt := (b.putText t).cnt } := by
  induction t generalizing b with
  | nil => rfl
  | cons c t ih => exact ih (b.putChar c)

/-- Settles O16: the text's effect is `Block.putText`, whose collection state records the text. -/
theorem collectionStateDescribesTheText : Obligations.CollectionStateDescribesTheText := by
  intro t s hp hc hbin hhex hbb hhb
  have hrec : (s.blk.putText t).Records t := Block.HoldsNoText.putText_records ⟨hc, hbin, hhex, hbb, hhb⟩ t
  exact ⟨_, putAll_eq t hp, hrec.cnt, hrec.allbin, hrec.allhex, hrec.binbuf, hrec.hexbuf,
    congrArg s.withBlk (s.blk.putText_frame t)⟩

end Sys2Proof.Machine
end

section
/-!
PROOF. Which command or event may write which element (10_state.md R24, R30, R35 to R37), from one lemma on the cause of a change.
-/

namespace Sys2Proof.Machine

open Sys2Proof.Claims

/-! ### The elements a run does not write -/

/-- `CMDERR`, `WSEL` and the `WL*` elements are the same (60_exceptions.md R250, 42_encoder.md R171). -/
structure Block.KeepsStatus (b b' : Block) : Prop where
  cmderr : b'.cmderr = b.cmderr
  wsel : b'.wsel = b.wsel
  wllen : b'.wllen = b.wllen
  wlmissing : b'.wlmissing = b.wlmissing
  wlmalformed : b'.wlmalformed = b.wlmalformed
  wlchecked : b'.wlchecked = b.wlchecked

theorem Block.raise_keepsStatus (e : ErrKind) (b : Block) : b.KeepsStatus (b.raise e) := by constructor <;> rfl

theorem Block.commit_keepsStatus (r : Results) (b : Block) : b.KeepsStatus (b.commit r) := by constructor <;> rfl

theorem Block.pipeline_keepsStatus (hash : HashFun) (w : Width) (e : BitVec 256) (src : Src) (b : Block) :
    b.KeepsStatus (b.pipeline hash w e src) := by
  rw [pipeline_eq]
  split
  · exact b.commit_keepsStatus _
  · exact b.raise_keepsStatus _

theorem Block.finish_keepsStatus (hash : HashFun) (src : Src) (r : Except ErrKind (Width × BitVec 256)) (b : Block) :
    b.KeepsStatus (b.finish hash src r) := by
  rcases r with k | ⟨w, e⟩
  · exact b.raise_keepsStatus k
  · exact b.pipeline_keepsStatus hash w e src

theorem Block.endInRand_keepsStatus (hash : HashFun) (b : Block) : b.KeepsStatus (b.endInRand hash) := by
  unfold Block.endInRand
  split
  · exact b.raise_keepsStatus _
  split
  · exact b.raise_keepsStatus _
  · exact b.pipeline_keepsStatus _ _ _ _

theorem Block.endInText_keepsStatus (hash : HashFun) (b : Block) : b.KeepsStatus (b.endInText hash) := by
  unfold Block.endInText
  split
  · constructor <;> rfl
  split
  · exact b.finish_keepsStatus _ _ _
  split
  · exact b.finish_keepsStatus _ _ _
  · exact b.raise_keepsStatus _

/-- Of the commands only INIT and CLEAR write one of these elements when they execute. -/
theorem effect_keepsStatus {i : Instr} (hi : i ≠ .init) (hc : i ≠ .clear) (p : ProviderPort) (bs : List Bool)
    (b : Block) : b.KeepsStatus (effect p bs i b) := by
  cases i with
  | nop => constructor <;> rfl
  | init => exact absurd rfl hi
  | clear => exact absurd rfl hc
  | putc c => constructor <;> rfl
  | endText =>
    simp only [effect, Block.endEffect]
    split
    · exact b.endInRand_keepsStatus _
    · exact b.endInText_keepsStatus _
  | sel c =>
    simp only [effect, Block.select]
    split
    · constructor <;> rfl
    · exact b.raise_keepsStatus _
  | draw => exact b.pipeline_keepsStatus _ _ _ _

/-- INIT writes of these elements the `WL*` alone, whatever its verdict (45_control.md R221). -/
theorem initialise_cmderr_wsel (p : ProviderPort) (b : Block) :
    (b.initialise p).cmderr = b.cmderr ∧ (b.initialise p).wsel = b.wsel := by
  unfold Block.initialise
  split
  · exact ⟨rfl, rfl⟩
  split <;> exact ⟨rfl, rfl⟩

/-- No command that executes writes `CMDERR`. -/
theorem effect_cmderr (p : ProviderPort) (bs : List Bool) (i : Instr) (b : Block) :
    (effect p bs i b).cmderr = b.cmderr := by
  by_cases hi : i = .init
  · subst hi; exact (initialise_cmderr_wsel p b).1
  by_cases hc : i = .clear
  · subst hc; rfl
  · exact (effect_keepsStatus hi hc p bs b).cmderr

/-- Of the commands CLEAR alone writes `WSEL`. -/
theorem effect_wsel {i : Instr} (hc : i ≠ .clear) (p : ProviderPort) (bs : List Bool) (b : Block) :
    (effect p bs i b).wsel = b.wsel := by
  by_cases hi : i = .init
  · subst hi; exact (initialise_cmderr_wsel p b).2
  · exact (effect_keepsStatus hi hc p bs b).wsel

/-- The `WL*` elements are the same. -/
def Block.KeepsWordlist (b b' : Block) : Prop :=
  b'.wllen = b.wllen ∧ b'.wlmissing = b.wlmissing ∧ b'.wlmalformed = b.wlmalformed ∧ b'.wlchecked = b.wlchecked

/-- Of the commands INIT alone writes the `WL*` elements. -/
theorem effect_keepsWordlist {i : Instr} (hi : i ≠ .init) (p : ProviderPort) (bs : List Bool) (b : Block) :
    b.KeepsWordlist (effect p bs i b) := by
  by_cases hc : i = .clear
  · subst hc; exact ⟨rfl, rfl, rfl, rfl⟩
  · have h := effect_keepsStatus hi hc p bs b
    exact ⟨h.wllen, h.wlmissing, h.wlmalformed, h.wlchecked⟩

/-! ### The cause of a change -/

/-- The block after a step, with the event that made it so (compare `BlockMove`, which forgets the event). -/
inductive BlockCause (s : State) : Block → Prop where
  /-- an accepted read, a provider event, waiting -/
  | stay : BlockCause s s.blk
  /-- an illegal command or a refused access -/
  | refused : BlockCause s s.blk.setCmderr
  | wsel (v : Word32) (rest : List Event) (hp : s.pending = .write (Reg.offset .wsel) v :: rest) :
      BlockCause s (s.blk.writeWsel v)
  | hardReset (rest : List Event) (hp : s.pending = .hardReset :: rest) : BlockCause s Block.reset
  | command (i : Instr) (bs : List Bool) (hr : runsCommand s i) (hl : legal i s.blk.phase s.blk.cnt = true) :
      BlockCause s (effect s.provider bs i s.blk)

theorem step_blockCause {s t : State} (h : step s = .next t) : BlockCause s t.blk := by
  cases step_cases h with
  | wait hp ht => exact ht ▸ .stay
  | command v rest i hp hd ht =>
    have hrun : runsCommand s i := ⟨v, rest, hp, hd⟩
    obtain ⟨-, rfl⟩ | ⟨hl, -, rfl⟩ | ⟨bs, src, rfl, hl, -, rfl⟩ := exec_cases ht
    · exact .refused
    · exact .command i [] hrun hl
    · exact .command .draw bs hrun hl
  | illegalWord v rest why hp hd ht => exact ht ▸ .refused
  | wselWrite v rest hp ht => exact ht ▸ .wsel v rest hp
  | refusedWrite a v rest hp hr ht => exact ht ▸ .refused
  | refusedRead a rest hp hr ht => exact ht ▸ .refused
  | read a r rest hp hr ha ht => exact ht ▸ .stay
  | hardReset rest hp ht => exact ht ▸ .hardReset rest hp
  | provider p rest hp ht => exact ht ▸ .stay

/-! ### The statements -/

/-- Settles O42: the refusals set `CMDERR`, and no command that executes writes it. -/
theorem cmderrIsSticky : Obligations.CmderrIsSticky := by
  intro s t h hc
  have hcause := step_blockCause h
  generalize t.blk = b at hcause ⊢
  cases hcause with
  | stay => exact .inl hc
  | refused => exact .inl rfl
  | wsel v rest hp => exact .inl hc
  | hardReset rest hp => exact .inr ⟨rest, hp⟩
  | command i bs => exact .inl ((effect_cmderr _ bs i s.blk).trans hc)

/-- In DONE only NOP and CLEAR execute (45_control.md R224). -/
theorem legal_done {i : Instr} {cnt : Fin 257} (h : legal i .done cnt = true) : i = .nop ∨ i = .clear := by
  cases i <;> simp [legal] at h ⊢

/-- Settles O43: in DONE only NOP and CLEAR execute, and neither a refusal nor the write of `WSEL` touches a result. -/
theorem resultsStayInDone : Obligations.ResultsStayInDone := by
  intro s t h hp
  have hcause := step_blockCause h
  generalize t.blk = b at hcause ⊢
  cases hcause with
  | stay | refused | wsel => exact .inl ⟨hp, rfl, rfl, rfl, rfl, rfl, rfl, rfl⟩
  | hardReset rest hp => exact .inr (.inr ⟨rest, hp⟩)
  | command i bs hr hl =>
    rcases legal_done (hp ▸ hl) with rfl | rfl
    · exact .inl ⟨hp, rfl, rfl, rfl, rfl, rfl, rfl, rfl⟩
    · exact .inr (.inl hr)

/-- Settles O44: by R41 (e) the block has left RESET, where alone INIT executes. -/
theorem wordlistStatusIsLatchedOnce : Obligations.WordlistStatusIsLatchedOnce := by
  intro s t hinv h hchk
  have hphase : s.blk.phase ≠ .reset := fun hp => by simp [hinv.checked.2 hp] at hchk
  have keep (b : Block) (hb : s.blk.KeepsWordlist b) : b.wllen = s.blk.wllen ∧ b.wlmissing = s.blk.wlmissing ∧
      b.wlmalformed = s.blk.wlmalformed ∧ b.wlchecked = true := hchk ▸ hb
  have hcause := step_blockCause h
  generalize t.blk = b at hcause ⊢
  cases hcause with
  | stay | refused | wsel => exact .inl (keep _ ⟨rfl, rfl, rfl, rfl⟩)
  | hardReset rest hp => exact .inr ⟨rest, hp⟩
  | command i bs hr hl =>
    have hi : i ≠ .init := by rintro rfl; simp [legal, hphase] at hl
    exact .inl (keep _ (effect_keepsWordlist hi _ bs s.blk))

/-- Settles O45: of the commands CLEAR alone writes `WSEL`, and its own write takes the low five bits. -/
theorem wselChangesOnlyAsListed : Obligations.WselChangesOnlyAsListed := by
  intro s t h
  have hcause := step_blockCause h
  generalize t.blk = b at hcause ⊢
  cases hcause with
  | stay | refused => exact .inl rfl
  | wsel v rest hp => exact .inr (.inr ⟨v, rest, hp, rfl⟩)
  | hardReset rest hp => exact .inr (.inl ⟨rfl, .inr ⟨rest, hp⟩⟩)
  | command i bs hr =>
    by_cases hc : i = .clear
    · subst hc
      exact .inr (.inl ⟨rfl, .inl hr⟩)
    · exact .inl (effect_wsel hc _ bs s.blk)

/-- Settles O48: the frame of a command, and the N requests DRAW counts. -/
theorem commandsTouchTheBlockAlone : Obligations.CommandsTouchTheBlockAlone := by
  intro i s t h
  obtain ⟨hherr, hrdata, hpending, hprovider, -⟩ := exec_frame h
  refine ⟨hherr, hrdata, hpending, hprovider, ?_⟩
  obtain ⟨-, rfl⟩ | ⟨-, -, rfl⟩ | ⟨bs, src, rfl, -, hb, rfl⟩ := exec_cases h
  · exact .inl rfl
  · exact .inl rfl
  · obtain ⟨-, hreq, hlive, -⟩ := drawBits_spec hb
    exact .inr ⟨rfl, hlive, hreq⟩

end Sys2Proof.Machine
end

section
/-!
PROOF. The register map of 20_memory.md R62: one register per mapped address and one address per register.
-/

namespace Sys2Proof.Machine

/-- `a` is the offset of no register: it is misaligned, in one of the two holes of the map, or above it. -/
def Unmapped (a : Addr) : Prop :=
  a.toNat % 4 ≠ 0 ∨ (0x068 ≤ a.toNat ∧ a.toNat < 0x080) ∨ (0x0A4 ≤ a.toNat ∧ a.toNat < 0x100) ∨ 0x160 ≤ a.toNat

/-! ### What `Reg.ofAddr` answers -/

/-- A right answer to the question which register is at `a`. -/
inductive Reg.IsAt (a : Addr) : Option Reg → Prop where
  | unmapped (h : Unmapped a) : IsAt a none
  | mapped (r : Reg) (h : r.offset = a) : IsAt a (some r)

theorem Reg.IsAt.of_toNat {a : Addr} {r : Reg} (h : r.offset.toNat = a.toNat) : Reg.IsAt a (some r) :=
  .mapped r (BitVec.eq_of_toNat_eq h)

theorem Reg.IsAt.ite {a : Addr} {c : Prop} [Decidable c] {x y : Option Reg} (hx : c → Reg.IsAt a x)
    (hy : ¬ c → Reg.IsAt a y) : Reg.IsAt a (if c then x else y) := iteInduction hx hy

/-- Every branch of `Reg.ofAddr` answers right, by the range of addresses it is for. -/
theorem Reg.isAt_ofAddr (a : Addr) : Reg.IsAt a (Reg.ofAddr a) := by
  unfold Reg.ofAddr
  refine .ite (fun h => .unmapped (.inl h)) fun _ => ?_
  refine .ite (fun _ => ?_) fun _ => ?_
  · split <;> exact .of_toNat (by simp [Reg.offset] at *; omega)
  refine .ite (fun _ => .of_toNat (by simp [Reg.offset]; omega)) fun _ => ?_
  refine .ite (fun _ => .of_toNat (by simp [Reg.offset]; omega)) fun _ => ?_
  refine .ite (fun h => .of_toNat h.symm) fun _ => ?_
  refine .ite (fun h => .of_toNat h.symm) fun _ => ?_
  refine .ite (fun _ => .unmapped (.inr (.inl (by omega)))) fun _ => ?_
  refine .ite (fun _ => .of_toNat (by simp [Reg.offset]; omega)) fun _ => ?_
  refine .ite (fun _ => .unmapped (.inr (.inr (.inl (by omega))))) fun _ => ?_
  refine .ite (fun _ => .of_toNat (by simp [Reg.offset]; omega)) fun _ => ?_
  exact .unmapped (.inr (.inr (.inr (by omega))))

theorem Reg.offset_of_ofAddr {r : Reg} {a : Addr} (h : Reg.ofAddr a = some r) : r.offset = a := by
  cases h ▸ Reg.isAt_ofAddr a with
  | mapped _ hr => exact hr

theorem Reg.ofAddr_offset (r : Reg) : Reg.ofAddr r.offset = some r := by
  cases r with
  | ent w => revert w; decide
  | dig w => revert w; decide
  | full w => revert w; decide
  | idx k => revert k; decide
  | _ => decide

/-- `Reg.ofAddr` inverts `Reg.offset`. -/
theorem Reg.ofAddr_eq_some_iff {r : Reg} {a : Addr} : Reg.ofAddr a = some r ↔ r.offset = a where
  mp := Reg.offset_of_ofAddr
  mpr h := h ▸ r.ofAddr_offset

theorem Reg.offset_inj {r r' : Reg} : r.offset = r'.offset ↔ r = r' := by
  rw [← Reg.ofAddr_eq_some_iff, Reg.ofAddr_offset, Option.some.injEq, eq_comm]

theorem Reg.offset_mapped (r : Reg) : ¬ Unmapped r.offset := by
  cases r with
  | ent w | dig w | full w | idx k => simp [Reg.offset, Unmapped]; omega
  | _ => simp [Reg.offset, Unmapped]

theorem Reg.ofAddr_eq_none_iff {a : Addr} : Reg.ofAddr a = none ↔ Unmapped a := by
  have h := Reg.isAt_ofAddr a
  generalize Reg.ofAddr a = o at h ⊢
  cases h with
  | unmapped h => simp [h]
  | mapped r h => simpa [← h] using r.offset_mapped

/-- Settles O49: `Reg.ofAddr` inverts `Reg.offset`, and the addresses it maps are all but the unmapped ones. -/
theorem registerMapIsOneToOne : Obligations.RegisterMapIsOneToOne := by
  refine ⟨fun r a => Reg.ofAddr_eq_some_iff, fun a => ?_⟩
  rw [ne_eq, Reg.ofAddr_eq_none_iff, Unmapped]
  omega

end Sys2Proof.Machine
end

section
/-!
PROOF. The accesses 20_memory.md R69 refuses, and what a read of a register answers (R64, R70).
-/

namespace Sys2Proof.Machine

open Sys2Proof.Claims

/-! ### Which accesses are refused -/

theorem Reg.access_eq_ro_iff {r : Reg} : r.access = .ro ↔ r ≠ .cmd ∧ r ≠ .wsel := by cases r <;> simp [Reg.access]

theorem Reg.access_eq_wo_iff {r : Reg} : r.access = .wo ↔ r = .cmd := by cases r <;> simp [Reg.access]

theorem refusedR69_iff {d : Dir} {a : Addr} :
    refusedR69 d a ↔ Unmapped a ∨ (d = .write ∧ a ≠ Reg.offset .cmd ∧ a ≠ Reg.offset .wsel) ∨
      (d = .read ∧ a = Reg.offset .cmd) := by
  simp only [refusedR69, Unmapped, or_assoc]
  rfl

theorem refusedR69_offset_iff {d : Dir} {r : Reg} :
    refusedR69 d r.offset ↔ (d = .write ∧ r.access = .ro) ∨ (d = .read ∧ r.access = .wo) := by
  simp only [refusedR69_iff, r.offset_mapped, false_or, ne_eq, Reg.offset_inj, Reg.access_eq_ro_iff,
    Reg.access_eq_wo_iff]

/-- The model refuses exactly the accesses that R69 lists. -/
theorem refuses_iff {d : Dir} {a : Addr} : refuses d a = true ↔ refusedR69 d a := by
  rcases ha : Reg.ofAddr a with _ | r
  · have hr : refuses d a = true := by simp [refuses, ha]
    exact iff_of_true hr (refusedR69_iff.2 (.inl (Reg.ofAddr_eq_none_iff.1 ha)))
  · obtain rfl := Reg.offset_of_ofAddr ha
    simp [refusedR69_offset_iff, refuses, ha]

/-! ### What an access does -/

theorem step_refusedWrite {s : State} {rest : List Event} {a : Addr} {v : Word32}
    (hp : s.pending = .write a v :: rest) (hr : refusedR69 .write a) :
    step s = .next ((s.accept rest).refuseAccess none) := by
  rw [step_cons hp, runEvent, memWrite, if_pos (refuses_iff.2 hr)]

theorem step_refusedRead {s : State} {rest : List Event} {a : Addr}
    (hp : s.pending = .read a :: rest) (hr : refusedR69 .read a) :
    step s = .next ((s.accept rest).refuseAccess (some 0)) := by
  simp only [step_cons hp, runEvent, memRead, if_pos (refuses_iff.2 hr)]
  split <;> rfl

/-- A write that is not refused runs a command, is the illegal command, or sets `WSEL`; none of them sets `herr`. -/
theorem herr_of_acceptedWrite {s t : State} {rest : List Event} {a : Addr} {v : Word32}
    (hp : s.pending = .write a v :: rest) (hr : ¬ refusedR69 .write a) (h : step s = .next t) : t.herr = false := by
  cases step_cases h with
  | command v' rest' i hp' hd ht => exact (exec_frame ht).1
  | illegalWord v' rest' why hp' hd ht => exact ht ▸ rfl
  | wselWrite v' rest' hp' ht => exact ht ▸ rfl
  | refusedWrite a' v' rest' hp' hr' =>
    cases hp.symm.trans hp'
    exact absurd (refuses_iff.1 hr') hr
  | wait hp' | refusedRead _ _ hp' | read _ _ _ hp' | hardReset _ hp' | provider _ _ hp' => cases hp.symm.trans hp'

/-- The read of a register but `CMD` answers its value and changes nothing (R70). -/
theorem step_read {s : State} {rest : List Event} {r : Reg} (hp : s.pending = .read r.offset :: rest)
    (hr : r ≠ .cmd) : step s = .next (accepted s rest (some (readValue s.blk r))) := by
  have hacc : ¬ refuses .read r.offset = true := by
    simpa [refuses_iff, refusedR69_offset_iff, Reg.access_eq_wo_iff] using hr
  simp only [step_cons hp, runEvent, memRead, Reg.ofAddr_offset, if_neg hacc]
  rfl

theorem exists_reg_of_acceptedRead {a : Addr} (h : ¬ refusedR69 .read a) : ∃ r ≠ Reg.cmd, r.offset = a := by
  rcases ha : Reg.ofAddr a with _ | r
  · exact absurd (refusedR69_iff.2 (.inl (Reg.ofAddr_eq_none_iff.1 ha))) h
  · obtain rfl := Reg.offset_of_ofAddr ha
    exact ⟨r, fun hr => h (refusedR69_offset_iff.2 (.inr ⟨rfl, Reg.access_eq_wo_iff.2 hr⟩)), rfl⟩

/-- Settles O50: the model's refusal is R69's list, and an accepted read is the read of a register but `CMD`. -/
theorem accessesAreRefusedAsListed : Obligations.AccessesAreRefusedAsListed := by
  intro s rest a
  refine ⟨fun v hp => ⟨fun hr => ?_, fun hr t h => herr_of_acceptedWrite hp hr h⟩,
    fun hp => ⟨fun hr => step_refusedRead hp hr, fun hr => ?_⟩⟩
  · exact ⟨_, step_refusedWrite hp hr, rfl⟩
  · obtain ⟨r, hcmd, rfl⟩ := exists_reg_of_acceptedRead hr
    exact ⟨_, step_read hp hcmd⟩

/-! ### The wide registers -/

theorem readValue_ent_getMsbD (b : Block) (w : Fin 8) {i : Nat} (hi : i < 32) :
    (readValue b (.ent w)).getMsbD i = b.ent.getMsbD (32 * w.val + i) :=
  extractLsb'_getMsbD b.ent (32 * w.val) 32 i (by omega) hi

theorem readValue_dig_getMsbD (b : Block) (w : Fin 8) {i : Nat} (hi : i < 32) :
    (readValue b (.dig w)).getMsbD i = b.dig.getMsbD (32 * w.val + i) :=
  extractLsb'_getMsbD b.dig (32 * w.val) 32 i (by omega) hi

theorem readValue_full_getMsbD (b : Block) {w : Fin 9} (hw : w.val < 8) {i : Nat} (hi : i < 32) :
    (readValue b (.full w)).getMsbD i = b.full.getMsbD (32 * w.val + i) := by
  rw [readValue, if_pos hw]
  exact extractLsb'_getMsbD b.full (32 * w.val) 32 i (by omega) hi

/-- `FULL8` holds the last 8 bits of `FULL` in its top byte. -/
theorem readValue_full8_getMsbD (b : Block) (i : Nat) :
    (readValue b (.full 8)).getMsbD i = (decide (i < 8) && b.full.getMsbD (256 + i)) := by
  rw [readValue, if_neg (by decide), append_getMsbD]
  by_cases hi : i < 8
  · simpa [hi] using extractLsb'_getMsbD b.full 256 8 i (by omega) hi
  · simp [hi]

/-- Settles O52: each address is the offset of a word of a wide register, and the word is a slice counted from the most
significant bit. -/
theorem wideRegistersReadMostSignificantWordFirst : Obligations.WideRegistersReadMostSignificantWordFirst := by
  intro s rest
  refine ⟨fun w hw hp => ?_, fun w hw hp => ?_, fun w hw hp => ?_, fun hp => ?_⟩
  · exact ⟨_, step_read (r := .ent ⟨w, hw⟩) hp (by simp), fun i => readValue_ent_getMsbD s.blk ⟨w, hw⟩⟩
  · exact ⟨_, step_read (r := .dig ⟨w, hw⟩) hp (by simp), fun i => readValue_dig_getMsbD s.blk ⟨w, hw⟩⟩
  · exact ⟨_, step_read (r := .full ⟨w, by omega⟩) hp (by simp), fun i => readValue_full_getMsbD s.blk hw⟩
  · exact ⟨_, step_read (r := .full 8) hp (by simp), fun i _ => readValue_full8_getMsbD s.blk i⟩

end Sys2Proof.Machine
end

section
/-!
PROOF. The Wordlist Provider's outputs (20_memory.md R66): an event changes them alone, and no command but INIT reads them.
-/

namespace Sys2Proof.Machine

open Sys2Proof.Claims
open Host (Outcome)

/-- Settles O58, by the step's own equation for a provider event. -/
theorem providerEventTouchesTheProviderAlone : Obligations.ProviderEventTouchesTheProviderAlone := by
  intro s rest p hp
  rw [step_cons hp]
  rfl

/-- The state with other outputs of the provider. -/
def State.withProvider (s : State) (p : ProviderPort) : State := { s with provider := p }

@[simp] theorem State.withProvider_provider (p : ProviderPort) (s : State) : (s.withProvider p).provider = p := rfl
@[simp] theorem State.withProvider_blk (p : ProviderPort) (s : State) : (s.withProvider p).blk = s.blk := rfl

/-- Two answers of a step that differ at most in the provider's outputs. -/
def AnswersButProvider (o₁ o₂ : Outcome State Fault Refusal) : Prop :=
  (∃ t₁ t₂, o₁ = .next t₁ ∧ o₂ = .next t₂ ∧ sameButProvider t₁ t₂) ∨ ∃ r, o₁ = .fault r ∧ o₂ = .fault r

theorem AnswersButProvider.next (s : State) (p : ProviderPort) :
    AnswersButProvider (.next s) (.next (s.withProvider p)) := .inl ⟨_, _, rfl, rfl, rfl⟩

/-- INIT's is the only effect that depends on the provider. -/
theorem effect_eq_of_ne_init {i : Instr} (hi : i ≠ .init) (p q : ProviderPort) (bs : List Bool) (b : Block) :
    effect q bs i b = effect p bs i b := by
  cases i with
  | init => exact absurd rfl hi
  | _ => rfl

/-- A command but INIT, run with other outputs of the provider. -/
theorem exec_withProvider {i : Instr} (hi : i ≠ .init) (s : State) (p : ProviderPort) :
    AnswersButProvider (exec i s) (exec i (s.withProvider p)) := by
  rcases hl : legal i s.blk.phase s.blk.cnt with _ | _
  · rw [exec_illegal hl, exec_illegal (s := s.withProvider p) hl]
    exact .next (s.withBlk s.blk.setCmderr) p
  by_cases hd : i = .draw
  · subst hd
    rcases hb : drawBits s.blk.width.entropyBits s.bits with _ | ⟨bs, src⟩
    · rw [exec_draw_silent hl hb, exec_draw_silent (s := s.withProvider p) hl hb]
      exact .inr ⟨_, rfl, rfl⟩
    · rw [exec_draw hl hb, exec_draw (s := s.withProvider p) hl hb]
      exact .next { s with blk := effect s.provider bs .draw s.blk, bits := src } p
  · rw [exec_legal hl hd, exec_legal (s := s.withProvider p) hl hd, State.withProvider_provider,
      effect_eq_of_ne_init hi s.provider p]
    exact .next (s.withBlk (effect s.provider [] i s.blk)) p

/-- An event but the write of INIT to `CMD`, run with other outputs of the provider. -/
theorem runEvent_withProvider {e : Event} (he : ∀ v, e = .write (Reg.offset .cmd) v → decode v ≠ .command .init)
    (s : State) (p : ProviderPort) : AnswersButProvider (runEvent e s) (runEvent e (s.withProvider p)) := by
  cases e with
  | write a v =>
    simp only [runEvent, memWrite]
    split
    · exact .next (s.refuseAccess none) p
    split
    · subst a
      simp only [runCommand]
      rcases hd : decode v with i | why
      · have hi : i ≠ .init := fun hi => he v rfl (hi ▸ hd)
        exact exec_withProvider hi (s.respond none) p
      · exact .next ((s.respond none).withBlk s.blk.setCmderr) p
    · exact .next ((s.respond none).withBlk (s.blk.writeWsel v)) p
  | read a =>
    simp only [runEvent, memRead]
    rcases Reg.ofAddr a with _ | r
    · exact .next (s.refuseAccess (some 0)) p
    simp only [State.withProvider_blk]
    split
    · exact .next (s.refuseAccess (some 0)) p
    · exact .next (s.respond (some (readValue s.blk r))) p
  | hardReset => exact .next s.hardReset p
  | provider q => exact .next { s with provider := q } q

/-- Settles O59: the two steps take the same event, and only the write of INIT depends on the provider. -/
theorem providerIsReadByInitOnly : Obligations.ProviderIsReadByInitOnly := by
  intro s₁ s₂ h hinit
  rw [show s₂ = s₁.withProvider s₂.provider from h]
  generalize s₂.provider = p
  show AnswersButProvider (step s₁) (step (s₁.withProvider p))
  rcases hp : s₁.pending with _ | ⟨e, rest⟩
  · rw [step_nil hp, step_nil (s := s₁.withProvider p) hp]
    exact .next s₁ p
  · rw [step_cons hp, step_cons (s := s₁.withProvider p) hp]
    exact runEvent_withProvider (fun v hv hd => hinit ⟨v, rest, hv ▸ hp, hd⟩) (s₁.accept rest) p

end Sys2Proof.Machine
end

section
/-!
PROOF. Command words (30_encoding.md R90 to R94): a word decodes to a command exactly when its fields are that command's,
so each command has one word.
-/

namespace Sys2Proof

open Sys2Proof.Claims

/-- The fields of a command's word (30_encoding.md R92, column "encoding of v"). -/
def Instr.fields (i : Instr) : CommandWord := { zeroHi := 0, op := i.opcode, zeroLo := 0, arg := i.argument }

/-- A word is a command's own exactly when its fields are. -/
theorem eq_encode_iff_fieldsOf (v : Word32) (i : Instr) : v = encode i ↔ fieldsOf v = i.fields := by
  constructor
  · rintro rfl
    exact fieldsOf_wordOf i.fields
  · intro h
    rw [← wordOf_fieldsOf v, h]
    rfl

/-! ### The decoder -/

theorem CommandWord.malformed_eq_none_iff (w : CommandWord) :
    w.malformed = none ↔
      w.zeroHi = 0 ∧ w.zeroLo = 0 ∧ w.op.toNat < 7 ∧ (takesNoArg w.op = true → w.arg = 0) := by
  unfold CommandWord.malformed
  split_ifs <;> simp_all

/-- The checks accept every command's word and its fields are the command's (`Laws.Encodes`, over all constructors). -/
theorem encodes (i : Instr) : Laws.Encodes.Statement i := by
  cases i with
  | nop => exact Laws.Encodes.nop
  | init => exact Laws.Encodes.init
  | clear => exact Laws.Encodes.clear
  | putc c => exact Laws.Encodes.putc c
  | endText => exact Laws.Encodes.endText
  | sel c => exact Laws.Encodes.sel c
  | draw => exact Laws.Encodes.draw

theorem decode_encode (i : Instr) : decode (encode i) = .command i := by
  obtain ⟨hwf, hop, harg⟩ := encodes i
  simp only [decode, hwf, hop, harg]
  cases i <;> rfl

/-- A word that decodes to a command passes the checks, and so carries the command's argument: PUTC (`h_4`) and SEL
(`h_6`) take it from the word, and R93 has it zero for the others. -/
theorem fieldsOf_of_decode {v : Word32} {i : Instr} (h : decode v = .command i) : fieldsOf v = i.fields := by
  simp only [decode] at h
  generalize fieldsOf v = w at h ⊢
  obtain ⟨hi, op, lo, arg⟩ := w
  split at h
  · cases h
  next hwf =>
    obtain ⟨rfl, rfl, -, harg⟩ := (CommandWord.malformed_eq_none_iff _).1 hwf
    dsimp only at h harg
    split at h <;> cases h
    case h_4 => rfl
    case h_6 => rfl
    all_goals rw [harg (by decide)]; rfl

theorem decode_eq_command_iff (v : Word32) (i : Instr) : decode v = .command i ↔ v = encode i := by
  constructor
  · exact fun h => (eq_encode_iff_fieldsOf v i).2 (fieldsOf_of_decode h)
  · rintro rfl
    exact decode_encode i

/-- Settles O1, by `decode_eq_command_iff`: the words that decode to a command are its own word alone. -/
theorem commandWordsRoundTrip : Obligations.CommandWordsRoundTrip :=
  ⟨decode_encode, fun v i => (decode_eq_command_iff v i).1⟩

/-! ### The field tests -/

/-- The table's row and the test of the unused argument together fix the opcode and the argument; the rows with an
operand are PUTC (`h_4`) and SEL (`h_6`). -/
theorem commandOf_eq_some_and_iff (n : Nat) (arg : BitVec 8) (i : Instr) :
    (commandOf n arg = some i ∧ (n ∈ [0, 1, 2, 4, 6] → arg = 0)) ↔ n = i.opcode.toNat ∧ arg = i.argument := by
  constructor
  · rintro ⟨hrow, harg⟩
    unfold commandOf at hrow
    split at hrow <;> cases hrow
    case h_4 => exact ⟨rfl, rfl⟩
    case h_6 => exact ⟨rfl, rfl⟩
    all_goals exact ⟨rfl, harg (by decide)⟩
  · rintro ⟨rfl, rfl⟩
    cases i <;> simp [commandOf, Instr.opcode, Instr.argument]

theorem wordNames_iff_fieldsOf (v : Word32) (i : Instr) : wordNames v i ↔ fieldsOf v = i.fields := by
  change (fieldsOf v).zeroHi = 0 ∧ (fieldsOf v).zeroLo = 0 ∧
    commandOf (fieldsOf v).op.toNat (fieldsOf v).arg = some i ∧
    ((fieldsOf v).op.toNat ∈ [0, 1, 2, 4, 6] → (fieldsOf v).arg = 0) ↔ _
  rw [commandOf_eq_some_and_iff, BitVec.toNat_inj, Instr.fields]
  obtain ⟨hi, op, lo, arg⟩ := fieldsOf v
  simp only [CommandWord.mk.injEq]
  tauto

/-- Settles O2: decoding and the field tests both hold exactly when the fields are the command's. -/
theorem decodeFollowsFieldTests : Obligations.DecodeFollowsFieldTests := fun v i =>
  calc decode v = .command i
    _ ↔ v = encode i := decode_eq_command_iff v i
    _ ↔ fieldsOf v = i.fields := eq_encode_iff_fieldsOf v i
    _ ↔ wordNames v i := (wordNames_iff_fieldsOf v i).symm

/-- Settles O6: each word is, by evaluation, the one `encode` gives. -/
theorem sampleWordsDecode : Obligations.SampleWordsDecode :=
  ⟨decode_encode .nop, decode_encode .init, decode_encode .clear, decode_encode (.putc 0x66), decode_encode .endText,
    decode_encode (.sel 0x31), decode_encode .draw⟩

end Sys2Proof
end

section
/-!
PROOF. The write of a command word as a step (20_memory.md R61, R71), and the character classes (30_encoding.md R97).
-/

namespace Sys2Proof.Machine

/-- Settles O5, by the step's equation and the event's for a word that decodes. -/
theorem stepRunsDecodedCommand : Obligations.StepRunsDecodedCommand :=
  fun _ _ _ _ hp hd => (step_cons hp).trans (runEvent_command hd)

/-! ### Character classes (30_encoding.md R97) -/

theorem hexval_digit {c : Char8} (h : 0x30 ≤ c.toNat ∧ c.toNat ≤ 0x39) :
    (hexval c).map BitVec.toNat = some (c.toNat - 0x30) := by
  rw [hexval, if_pos h, Option.map_some, BitVec.toNat_ofNat, Nat.mod_eq_of_lt (by omega)]

theorem hexval_upper {c : Char8} (h : 0x41 ≤ c.toNat ∧ c.toNat ≤ 0x46) :
    (hexval c).map BitVec.toNat = some (c.toNat - 0x37) := by
  rw [hexval, if_neg (by omega), if_pos h, Option.map_some, BitVec.toNat_ofNat, Nat.mod_eq_of_lt (by omega)]

theorem hexval_lower {c : Char8} (h : 0x61 ≤ c.toNat ∧ c.toNat ≤ 0x66) :
    (hexval c).map BitVec.toNat = some (c.toNat - 0x57) := by
  rw [hexval, if_neg (by omega), if_neg (by omega), if_pos h, Option.map_some, BitVec.toNat_ofNat,
    Nat.mod_eq_of_lt (by omega)]

theorem hexval_eq_none {c : Char8} (hd : ¬ (0x30 ≤ c.toNat ∧ c.toNat ≤ 0x39))
    (hu : ¬ (0x41 ≤ c.toNat ∧ c.toNat ≤ 0x46)) (hl : ¬ (0x61 ≤ c.toNat ∧ c.toNat ≤ 0x66)) : hexval c = none := by
  rw [hexval, if_neg hd, if_neg hu, if_neg hl]

theorem binval_getLsbD_zero (c : Char8) : (binval c).getLsbD 0 = c.getLsbD 0 := by simp [binval]

/-- On a binary character the two readings agree. -/
theorem hexval_of_isbin {c : Char8} (h : isbin c = true) :
    (hexval c).map BitVec.toNat = some (binval c).toNat := by
  obtain rfl | rfl := (isbin_iff c).1 h <;> rfl

/-- Settles O14, one branch of `hexval` a clause. -/
theorem characterClasses : Obligations.CharacterClasses := fun c =>
  ⟨hexval_digit, hexval_upper, hexval_lower, hexval_eq_none, isbin_iff c, binval_getLsbD_zero c, hexval_of_isbin⟩

end Sys2Proof.Machine
end

section
/-!
PROOF. PUTC on one character (40_normalizer.md R121): its word, its writes bit by bit, and its phases.
-/

namespace Sys2Proof

/-- The word of a command as a number: the opcode in bits 15:12, the argument in the low byte (30_encoding.md R90). -/
theorem encode_eq_add (i : Instr) : encode i = (i.opcode.setWidth 32 <<< 12) + i.argument.setWidth 32 := by
  have hop := i.opcode.isLt
  have harg := i.argument.isLt
  apply BitVec.eq_of_toNat_eq
  simp only [encode, wordOf, BitVec.toNat_append, BitVec.toNat_add, BitVec.toNat_shiftLeft, BitVec.toNat_setWidth,
    ← Nat.shiftLeft_add_eq_or_of_lt harg]
  simp [Nat.shiftLeft_eq]
  omega

end Sys2Proof

namespace Sys2Proof.Machine

open Sys2Proof.Claims

theorem decode_putcWord (c : Char8) : decode (0x00003000 + c.setWidth 32) = .command (.putc c) := by
  rw [decode_eq_command_iff, encode_eq_add]
  rfl

theorem isbin_eq_decide (c : Char8) : isbin c = decide (c = 0x30 ∨ c = 0x31) := by
  rw [Bool.eq_iff_iff, isbin_iff, decide_eq_true_iff]

theorem exec_putc_illegal {s : State} (c : Char8) (ht : s.blk.phase ≠ .text) (hr : s.blk.phase ≠ .rand) :
    exec (.putc c) s = .next (withCmderr s) :=
  exec_illegal (by simp [legal, ht, hr])

theorem exec_putc {s : State} (c : Char8) (hp : s.blk.phase = .text ∨ s.blk.phase = .rand) :
    exec (.putc c) s = .next (s.withBlk (s.blk.putChar c)) :=
  exec_legal (by simpa [legal] using hp) (by simp)

/-- Settles O15: the state answered is that of `Block.putChar`, whose buffers are known bit by bit. -/
theorem putcRecordsOneCharacter : Obligations.PutcRecordsOneCharacter := by
  intro c s
  refine ⟨decode_putcWord c, exec_putc_illegal c, fun hp =>
    ⟨_, exec_putc c hp, ?binbuf, ?hexbuf, ?allbin, rfl, rfl, rfl⟩⟩
  case binbuf => exact fun i hi => binbufAfter_getLsbD _ _ c i hi
  case hexbuf => exact fun i hi => hexbufAfter_getLsbD _ _ c i hi
  case allbin => exact congrArg (s.blk.allbin && ·) (isbin_eq_decide c)

end Sys2Proof.Machine
end

section
/-!
PROOF. The pipeline and the error sequence as the statements write them out (42_encoder.md R165 to R171,
60_exceptions.md R250).
-/

namespace Sys2Proof.Machine

open Sys2Proof.Claims

theorem raise_eq_errorEntry (e : ErrKind) (b : Block) : b.raise e = errorEntry e b := by cases e <;> rfl

theorem inRange_resultsOf_iff_fits {w : Width} {e : BitVec 256} {src : Src} {n : BitVec 12} :
    inRange w (resultsOf hash256 w e src).full n = true ↔ fits w e n := inRange_iff

theorem pipeline_of_fits {w : Width} {e : BitVec 256} {src : Src} {b : Block} (h : fits w e b.wllen) :
    b.pipeline hash256 w e src = committed w e src b := by
  rw [pipeline_eq, if_pos (inRange_resultsOf_iff_fits.2 h)]
  rfl

theorem pipeline_of_not_fits {w : Width} {e : BitVec 256} {src : Src} {b : Block} (h : ¬ fits w e b.wllen) :
    b.pipeline hash256 w e src = errorEntry .wordlistCorrupt b := by
  rw [pipeline_eq, if_neg (mt inRange_resultsOf_iff_fits.1 h), raise_eq_errorEntry]

/-- With 2048 entries or more every 11-bit index is in range (42_encoder.md R165). -/
theorem fits_of_le {w : Width} {e : BitVec 256} {n : BitVec 12} (h : 2048 ≤ n.toNat) : fits w e n :=
  inRange_iff.1 (inRange_of_le h)

theorem runsPipeline_of_exec {i : Instr} {s : State} {w : Width} {e : BitVec 256} {src : Src}
    (h : exec i s = .next (s.withBlk (s.blk.pipeline hash256 w e src))) : runsPipeline i s w e src :=
  ⟨fun hf => by rw [h, pipeline_of_fits hf]; rfl, fun hf => by rw [h, pipeline_of_not_fits hf]; rfl⟩

/-! ### The first N bits -/

theorem firstBits_getMsbD (w : Width) (v : BitVec 256) {p : Nat} (hp : p < 256) :
    (firstBits w v).getMsbD p = (decide (p < w.entropyBits) && v.getMsbD p) := by
  have hpos : 256 - w.entropyBits ≤ 256 - 1 - p ↔ p < w.entropyBits := by cases w <;> simp <;> omega
  rw [getMsbD_eq_getLsbD _ hp, getMsbD_eq_getLsbD _ hp, firstBits_getLsbD _ _ _ (by omega)]
  simp only [hpos]

theorem firstBits_bits128 (v : BitVec 256) : firstBits .bits128 v = firstN 128 v := by
  apply BitVec.eq_of_getLsbD_eq
  intro i hi
  rw [firstBits_getLsbD _ _ _ hi]
  rcases Nat.lt_or_ge i 128 with h | h
  · simp [firstN, h, Nat.not_le.2 h]
  · simp [firstN, hi, h, Nat.not_lt.2 h]

theorem firstBits_bits256 (v : BitVec 256) : firstBits .bits256 v = v := rfl

end Sys2Proof.Machine
end

section
/-!
PROOF. END in TEXT (40_normalizer.md R123 to R126): what the collected text means is a function of the collection
state, and END carries that meaning out.
-/

namespace Sys2Proof.Machine

open Sys2Proof.Claims

/-- What a normalised entropy of source `src`, or the reason there is none, means. -/
def TextMeaning.ofNorm (src : Src) : Except ErrKind (Width × BitVec 256) → TextMeaning
  | .error k   => .error k
  | .ok (w, e) => .entropy w e src

/-- What END in TEXT takes the collected text to mean (R123). -/
def Block.collectedMeaning (b : Block) : TextMeaning :=
  if b.cnt = 0 then .defer
  else if b.allbin then .ofNorm .binText b.normBinary
  else if b.allhex then .ofNorm .hexText b.normHex
  else .error .invalidInputFormat

/-- What the block does with a text of a given meaning. -/
def Block.carryOut (hash : HashFun) : TextMeaning → Block → Block
  | .defer,           b => { b with phase := .select }
  | .error k,         b => b.raise k
  | .entropy w e src, b => b.pipeline hash w e src

theorem Block.finish_eq_carryOut (hash : HashFun) (src : Src) (r : Except ErrKind (Width × BitVec 256)) (b : Block) :
    b.finish hash src r = b.carryOut hash (.ofNorm src r) := by
  rcases r with k | ⟨w, e⟩ <;> rfl

/-- END in TEXT is the classification followed by the classified text's effect. -/
theorem Block.endInText_eq_carryOut (hash : HashFun) (b : Block) :
    b.endInText hash = b.carryOut hash b.collectedMeaning := by
  unfold Block.endInText Block.collectedMeaning
  split
  · rfl
  split
  · exact b.finish_eq_carryOut hash _ _
  split
  · exact b.finish_eq_carryOut hash _ _
  · rfl

/-! ### END by the meaning of the text -/

section

variable {s : State} (hp : s.blk.phase = .text)
include hp

theorem exec_endText_of_text :
    exec .endText s = .next (s.withBlk (s.blk.carryOut hash256 s.blk.collectedMeaning)) := by
  have hl : legal .endText s.blk.phase s.blk.cnt = true := by simp [legal, hp]
  have heff : s.blk.endEffect hash256 = s.blk.endInText hash256 := if_neg (by simp [hp])
  rw [exec_legal hl (by simp), effect, heff, Block.endInText_eq_carryOut]

theorem exec_endText_of_defer (hm : s.blk.collectedMeaning = .defer) :
    exec .endText s = .next { s with blk := { s.blk with phase := .select } } := by
  rw [exec_endText_of_text hp, hm]
  rfl

theorem exec_endText_of_error {k : ErrKind} (hm : s.blk.collectedMeaning = .error k) :
    exec .endText s = .next { s with blk := errorEntry k s.blk } := by
  rw [exec_endText_of_text hp, hm, ← raise_eq_errorEntry]
  rfl

theorem runsPipeline_endText_of_entropy {w : Width} {e : BitVec 256} {src : Src}
    (hm : s.blk.collectedMeaning = .entropy w e src) : runsPipeline .endText s w e src :=
  runsPipeline_of_exec (by rw [exec_endText_of_text hp, hm]; rfl)

end

/-! ### The branches of the classification -/

theorem Block.collectedMeaning_of_empty {b : Block} (h0 : b.cnt.val = 0) : b.collectedMeaning = .defer :=
  if_pos (Fin.ext h0)

section

variable {b : Block} (h0 : b.cnt.val ≠ 0)
include h0

theorem Block.collectedMeaning_of_binary (hb : b.allbin = true) :
    b.collectedMeaning = .ofNorm .binText b.normBinary := by
  rw [Block.collectedMeaning, if_neg (Fin.val_ne_zero_iff.1 h0), if_pos hb]

theorem Block.collectedMeaning_of_hex (hb : b.allbin = false) (hh : b.allhex = true) :
    b.collectedMeaning = .ofNorm .hexText b.normHex := by
  rw [Block.collectedMeaning, if_neg (Fin.val_ne_zero_iff.1 h0), if_neg (by simp [hb]), if_pos hh]

theorem Block.collectedMeaning_of_other (hb : b.allbin = false) (hh : b.allhex = false) :
    b.collectedMeaning = .error .invalidInputFormat := by
  rw [Block.collectedMeaning, if_neg (Fin.val_ne_zero_iff.1 h0), if_neg (by simp [hb]), if_neg (by simp [hh])]

end

theorem Block.normBinary_of_short {b : Block} (h : b.cnt.val < 128) : b.normBinary = .error .insufficientEntropy :=
  if_pos h

theorem Block.normBinary_of_bits128 {b : Block} (h : 128 ≤ b.cnt.val) (h' : b.cnt.val < 256) :
    b.normBinary = .ok (.bits128, firstBits .bits128 b.binbuf) := by
  rw [Block.normBinary, if_neg (by omega), if_pos h']

theorem Block.normBinary_of_bits256 {b : Block} (h : b.cnt.val = 256) :
    b.normBinary = .ok (.bits256, firstBits .bits256 b.binbuf) := by
  rw [Block.normBinary, if_neg (by omega), if_neg (by omega)]

theorem Block.normHex_of_bits128 {b : Block} (h : b.cnt.val = 32) :
    b.normHex = .ok (.bits128, firstBits .bits128 b.hexbuf) := if_pos h

theorem Block.normHex_of_bits256 {b : Block} (h : b.cnt.val = 64) :
    b.normHex = .ok (.bits256, firstBits .bits256 b.hexbuf) := by
  rw [Block.normHex, if_neg (by omega), if_pos h]

theorem Block.normHex_of_length {b : Block} (h : b.cnt.val ≠ 32) (h' : b.cnt.val ≠ 64) :
    b.normHex = .error .invalidHexLength := by
  rw [Block.normHex, if_neg h, if_neg h']

/-- Settles O17: in each clause the classification is evaluated, and END carries its outcome out. -/
theorem endInTextClassifies : Obligations.EndInTextClassifies := by
  intro s hp
  refine ⟨fun h0 => exec_endText_of_defer hp (Block.collectedMeaning_of_empty h0), ?binShort, ?bin128, ?bin256,
    ?hex128, ?hex256, ?hexLength, fun h0 hb hh => exec_endText_of_error hp (Block.collectedMeaning_of_other h0 hb hh)⟩
  case binShort =>
    intro h0 hb hn
    apply exec_endText_of_error hp
    rw [Block.collectedMeaning_of_binary h0 hb, Block.normBinary_of_short hn]
    rfl
  case bin128 =>
    intro hb hn hn'
    apply runsPipeline_endText_of_entropy hp
    rw [Block.collectedMeaning_of_binary (by omega) hb, Block.normBinary_of_bits128 hn hn', firstBits_bits128]
    rfl
  case bin256 =>
    intro hb hn
    apply runsPipeline_endText_of_entropy hp
    rw [Block.collectedMeaning_of_binary (by omega) hb, Block.normBinary_of_bits256 hn, firstBits_bits256]
    rfl
  case hex128 =>
    intro hb hh hn
    apply runsPipeline_endText_of_entropy hp
    rw [Block.collectedMeaning_of_hex (by omega) hb hh, Block.normHex_of_bits128 hn, firstBits_bits128]
    rfl
  case hex256 =>
    intro hb hh hn
    apply runsPipeline_endText_of_entropy hp
    rw [Block.collectedMeaning_of_hex (by omega) hb hh, Block.normHex_of_bits256 hn, firstBits_bits256]
    rfl
  case hexLength =>
    intro h0 hb hh hn hn'
    apply exec_endText_of_error hp
    rw [Block.collectedMeaning_of_hex h0 hb hh, Block.normHex_of_length hn hn']
    rfl

/-- Settles O18: O17's four pipelines, whose range check 2048 entries always pass. -/
theorem endOfGoodTextCommits : Obligations.EndOfGoodTextCommits := by
  intro s hp hlen
  obtain ⟨-, -, bin128, bin256, hex128, hex256, -⟩ := endInTextClassifies s hp
  exact ⟨fun hb hn hn' => (bin128 hb hn hn').1 (fits_of_le hlen), fun hb hn => (bin256 hb hn).1 (fits_of_le hlen),
    fun hb hh hn => (hex128 hb hh hn).1 (fits_of_le hlen), fun hb hh hn => (hex256 hb hh hn).1 (fits_of_le hlen)⟩

end Sys2Proof.Machine
end

section
/-!
PROOF. A typed text means NormText of the whole text (40_normalizer.md R128): the collection state that records a text
of any length classifies as the text does.
-/

namespace Sys2Proof.Machine

open Sys2Proof.Claims

/-! ### The buffers of a recorded text -/

theorem getLsbD_zero_of_isbin {c : Char8} (h : c = 0x30 ∨ c = 0x31) : c.getLsbD 0 = (c == 0x31) := by
  rcases h with rfl | rfl <;> rfl

theorem leftAlignedHex_getMsbD (hs : List (BitVec 4)) {p : Nat} (hp : p < 256) :
    (leftAlignedHex hs).getMsbD p = (hs.getD (p / 4) 0).getMsbD (p % 4) := by
  rw [getMsbD_eq_getLsbD _ hp, leftAlignedHex_getLsbD _ _ (by omega), show 255 - (256 - 1 - p) = p by omega]

theorem filterMap_hexval_eq_map {t : List Char8} (h : ∀ c ∈ t, hexval c ≠ none) :
    t.filterMap hexval = t.map fun c => (hexval c).getD 0 := by
  rw [List.filterMap_eq_map_iff_forall_eq_some]
  intro c hc
  obtain ⟨d, hd⟩ := Option.ne_none_iff_exists'.1 (h c hc)
  simp [hd]

section

variable {b : Block} {t : List Char8} (h : b.Records t)
include h

/-- A binary text of at least N characters: `BINBUF`'s first N bits are its first N characters. -/
theorem Block.Records.firstBits_binbuf (hb : b.allbin = true) {w : Width} (hw : w.entropyBits ≤ t.length) :
    firstBits w b.binbuf = leftAligned ((t.take w.entropyBits).map (· == 0x31)) := by
  apply eq_of_getMsbD
  intro p hp
  rw [firstBits_getMsbD _ _ hp, leftAligned_getMsbD _ _ hp, h.binbuf hb p hp]
  by_cases hpw : p < w.entropyBits
  · have hpt : p < t.length := by omega
    have hbin := h.allbin.1 hb t[p] (List.getElem_mem hpt)
    rw [List.getD_eq_getElem _ _ hpt, getLsbD_zero_of_isbin hbin]
    simp [hpw, hpt]
  · simp [hpw]

/-- A hex text of exactly N/4 digits: `HEXBUF`'s first N bits are its digits. -/
theorem Block.Records.firstBits_hexbuf (hh : b.allhex = true) {w : Width} (hw : 4 * t.length = w.entropyBits) :
    firstBits w b.hexbuf = leftAlignedHex (t.filterMap hexval) := by
  apply eq_of_getMsbD
  intro p hp
  have hpos : 4 * (p / 4) + p % 4 = p := by omega
  have hbuf := h.hexbuf hh (p / 4) (by omega) (p % 4) (by omega)
  rw [hpos] at hbuf
  rw [firstBits_getMsbD _ _ hp, leftAlignedHex_getMsbD _ hp, filterMap_hexval_eq_map (h.allhex.1 hh), hbuf]
  by_cases hpw : p < w.entropyBits
  · have hpt : p / 4 < t.length := by omega
    simp [hpw, hpt]
  · have hpt : t.length ≤ p / 4 := by omega
    simp [hpw, hpt]

/-! ### The classification of a recorded text -/

theorem Block.Records.cnt_eq_zero_iff : b.cnt = 0 ↔ t.length = 0 := by
  have hc := h.cnt
  rw [Fin.ext_iff]
  simp only [Fin.val_zero]
  omega

theorem Block.Records.allbin_eq : b.allbin = t.all isbin := by
  rw [Bool.eq_iff_iff, h.allbin, List.all_eq_true]
  simp only [isbin_iff]

theorem Block.Records.allhex_eq : b.allhex = t.all ishex := by
  rw [Bool.eq_iff_iff, h.allhex, List.all_eq_true]
  simp only [ishex, Option.isSome_iff_ne_none]

theorem Block.Records.ofNorm_normBinary (hb : b.allbin = true) :
    TextMeaning.ofNorm .binText b.normBinary =
      if t.length < 128 then .error .insufficientEntropy
      else binaryMeaning (if t.length < 256 then .bits128 else .bits256) t := by
  have hc := h.cnt
  split
  · rw [Block.normBinary_of_short (by omega)]
    rfl
  split
  · rw [Block.normBinary_of_bits128 (by omega) (by omega), h.firstBits_binbuf hb (by simp; omega)]
    rfl
  · rw [Block.normBinary_of_bits256 (by omega), h.firstBits_binbuf hb (by simp; omega)]
    rfl

theorem Block.Records.ofNorm_normHex (hh : b.allhex = true) :
    TextMeaning.ofNorm .hexText b.normHex =
      if t.length = 32 then .entropy .bits128 (leftAlignedHex (t.filterMap hexval)) .hexText
      else if t.length = 64 then .entropy .bits256 (leftAlignedHex (t.filterMap hexval)) .hexText
      else .error .invalidHexLength := by
  have hc := h.cnt
  split
  · rw [Block.normHex_of_bits128 (by omega), h.firstBits_hexbuf hh (by simp; omega)]
    rfl
  split
  · rw [Block.normHex_of_bits256 (by omega), h.firstBits_hexbuf hh (by simp; omega)]
    rfl
  · rw [Block.normHex_of_length (by omega) (by omega)]
    rfl

/-- The bounded collection state tells the meaning of a text of any length (R128). -/
theorem Block.Records.collectedMeaning_eq_normText : b.collectedMeaning = normText t := by
  unfold Block.collectedMeaning normText
  simp only [h.cnt_eq_zero_iff, ← h.allbin_eq, ← h.allhex_eq]
  split
  · rfl
  split
  · next hb => exact h.ofNorm_normBinary hb
  split
  · next hh => exact h.ofNorm_normHex hh
  · rfl

end

/-! ### The typed text leaves nothing else -/

theorem eq_nil_of_normText_eq_defer {t : List Char8} (h : normText t = .defer) : t = [] := by
  by_contra hne
  rw [normText, if_neg (mt List.length_eq_zero_iff.1 hne)] at h
  simp only [binaryMeaning] at h
  split_ifs at h

@[simp] theorem Block.putText_phase (t : List Char8) (b : Block) : (b.putText t).phase = b.phase := by
  rw [b.putText_frame t]

@[simp] theorem Block.putText_wllen (t : List Char8) (b : Block) : (b.putText t).wllen = b.wllen := by
  rw [b.putText_frame t]

@[simp] theorem errorEntry_putText (k : ErrKind) (t : List Char8) (b : Block) :
    errorEntry k (b.putText t) = errorEntry k b := by rw [b.putText_frame t]; rfl

@[simp] theorem committed_putText (w : Width) (e : BitVec 256) (src : Src) (t : List Char8) (b : Block) :
    committed w e src (b.putText t) = committed w e src b := by rw [b.putText_frame t]; rfl

/-- Settles O25: the state after the text records it, so END carries out its meaning, and the error sequence and the
commit overwrite what the text wrote. -/
theorem typedTextMeansNormText : Obligations.TypedTextMeansNormText := by
  intro t s hp hc hbin hhex hbb hhb
  have hrec : (s.blk.putText t).Records t := Block.HoldsNoText.putText_records ⟨hc, hbin, hhex, hbb, hhb⟩ t
  have hm := hrec.collectedMeaning_eq_normText
  have hpu : (s.withBlk (s.blk.putText t)).blk.phase = .text := by simp [hp]
  refine ⟨_, putAll_eq t (.inl hp), ?_⟩
  rcases hn : normText t with _ | ⟨w, e, src⟩ | k
  · obtain rfl := eq_nil_of_normText_eq_defer hn
    exact exec_endText_of_defer hp (hm.trans hn)
  · have hrun := runsPipeline_endText_of_entropy hpu (hm.trans hn)
    simpa [runsPipeline] using hrun
  · have hend := exec_endText_of_error hpu (hm.trans hn)
    simpa using hend

end Sys2Proof.Machine
end

section
/-!
PROOF. The checksum (41_checksum.md): the message hashed, the slice of the digest in both of D0's descriptions, and the
check digests.
-/

namespace Sys2Proof.Machine

/-! ### The message and the slice, bit by bit -/

theorem bytesOf_entropyOf_length (w : Width) (e : BitVec 256) :
    (bytesOf (entropyOf w e)).length = w.entropyBits / 8 := bytesOf_length _

/-- The message is the first N bits of the entropy register, cut into bytes (41_checksum.md R141, 00_scope.md R12). -/
theorem bytesOf_entropyOf_getMsbD (w : Width) (e : BitVec 256) {j i : Nat} (hj : j < w.entropyBits / 8) (hi : i < 8) :
    ((bytesOf (entropyOf w e)).getD j 0).getMsbD i = e.getMsbD (8 * j + i) :=
  calc ((bytesOf (entropyOf w e)).getD j 0).getMsbD i
      = (entropyOf w e).getMsbD (8 * j + i) := bytesOf_getMsbD _ j i hj hi
    _ = e.getMsbD (8 * j + i) := entropyOf_getMsbD w e _ (by omega)

/-- Settles O26: the message is `bytesOf (entropyOf w e)`, and both it and the slice are known bit by bit. -/
theorem checksumIsTheLeadingDigestBits : Obligations.ChecksumIsTheLeadingDigestBits := fun hash w e =>
  ⟨bytesOf (entropyOf w e), bytesOf_entropyOf_length w e, fun _ hj _ hi => bytesOf_entropyOf_getMsbD w e hj hi, rfl,
    leadingBits_getMsbD w (hash (bytesOf (entropyOf w e)))⟩

/-! ### The slice as the value of the first hex digits -/

/-- The number that hexadecimal digits write, most significant first. -/
def hexDigitsValue (hs : List (BitVec 4)) : Nat := hs.foldl (fun n h => 16 * n + h.toNat) 0

@[simp] theorem hexDigitsValue_nil : hexDigitsValue [] = 0 := rfl

theorem hexDigitsValue_singleton (h : BitVec 4) : hexDigitsValue [h] = h.toNat := by simp [hexDigitsValue]

theorem hexDigitsValue_append_singleton (hs : List (BitVec 4)) (h : BitVec 4) :
    hexDigitsValue (hs ++ [h]) = 16 * hexDigitsValue hs + h.toNat := by simp [hexDigitsValue]

theorem hexRendering_head? (d : BitVec 256) : (hexRendering d).head? = some (d.extractLsb' 252 4) := rfl

theorem hexRendering_take_succ (d : BitVec 256) {k : Nat} (hk : k < 64) :
    (hexRendering d).take (k + 1) = (hexRendering d).take k ++ [d.extractLsb' (252 - 4 * k) 4] := by
  rw [List.take_add_one]
  simp [hexRendering, hk]

/-- The first `k` digits of the rendering write the digest without its last `256 - 4k` bits. -/
theorem hexDigitsValue_take_hexRendering (d : BitVec 256) {k : Nat} (hk : k ≤ 64) :
    hexDigitsValue ((hexRendering d).take k) = d.toNat / 2 ^ (256 - 4 * k) := by
  induction k with
  | zero => simpa using (Nat.div_eq_of_lt d.isLt).symm
  | succ k ih =>
    have hpow : 2 ^ (256 - 4 * k) = 2 ^ (252 - 4 * k) * 16 := by
      rw [show 256 - 4 * k = (252 - 4 * k) + 4 by omega, pow_add, show 2 ^ 4 = 16 by decide]
    rw [hexRendering_take_succ d hk, hexDigitsValue_append_singleton, ih (by omega), BitVec.extractLsb'_toNat,
      Nat.shiftRight_eq_div_pow, hpow, ← Nat.div_div_eq_div_mul, show 256 - 4 * (k + 1) = 252 - 4 * k by omega]
    exact Nat.div_add_mod _ 16

theorem leadingBits_toNat (w : Width) (d : BitVec 256) :
    (leadingBits w d).toNat = d.toNat / 2 ^ (256 - w.checksumBits) := by
  have hd := d.isLt
  cases w <;> simp [leadingBits, Nat.shiftRight_eq_div_pow] <;> omega

/-- The two descriptions of the slice agree: the checksum is the value of the first `checksum_bits / 4` digits
(41_checksum.md R143). -/
theorem hexDigitsValue_take_eq_leadingBits (w : Width) (d : BitVec 256) :
    hexDigitsValue ((hexRendering d).take (w.checksumBits / 4)) = (leadingBits w d).toNat := by
  have hc : w.checksumBits / 4 ≤ 64 ∧ 4 * (w.checksumBits / 4) = w.checksumBits := by cases w <;> decide
  rw [hexDigitsValue_take_hexRendering d hc.1, hc.2, leadingBits_toNat]

/-- Settles O27: one digit for `bits128`, two for `bits256`. -/
theorem checksumIsTheFirstHexDigits : Obligations.ChecksumIsTheFirstHexDigits := by
  intro d
  refine ⟨?_, hexDigitsValue_take_eq_leadingBits .bits256 d⟩
  rw [hexRendering_head?, Option.map_some, ← hexDigitsValue_singleton]
  exact congrArg some (hexDigitsValue_take_eq_leadingBits .bits128 d)

/-! ### The check digests -/

/-- Settles O28: SHA-256 (log 8) evaluated on each message of 41_checksum.md R149. -/
theorem sha256CheckValues : Obligations.Sha256CheckValues := by
  refine ⟨?zeros16, ?zeros32, ?ones16, ?ones32⟩
  case zeros16 => decide +kernel
  case zeros32 => decide +kernel
  case ones16 => decide +kernel
  case ones32 => decide +kernel

end Sys2Proof.Machine
end

section
/-!
PROOF. The encoder (42_encoder.md): FullBitstream bit by bit, its 11-bit groups, and what the indices of a finished
run determine.
-/

namespace Sys2Proof.Machine

open Sys2Proof.Claims

/-! ### FullBitstream and its groups -/

theorem concat_bits128_getMsbD (e : BitVec 256) (c : BitVec 8) (p : Nat) :
    (concat .bits128 e c).getMsbD p =
      if p < 128 then e.getMsbD p else if p < 132 then c.getMsbD (4 + (p - 128)) else false := by
  simp only [concat, append_getMsbD]
  rcases Nat.lt_or_ge p 128 with h128 | h128
  · have hent : (e.extractLsb' 128 128).getMsbD p = e.getMsbD p := by
      simpa using extractLsb'_getMsbD e 0 128 p (by omega) h128
    rw [if_pos (by omega), if_pos h128, if_pos h128, hent]
  rw [if_neg (show ¬ p < 128 by omega), if_neg (show ¬ p < 128 by omega)]
  rcases Nat.lt_or_ge p 132 with h132 | h132
  · rw [if_pos h132, if_pos h132]
    exact extractLsb'_getMsbD c 4 4 (p - 128) (by omega) (by omega)
  · rw [if_neg (show ¬ p < 128 + 4 by omega), if_neg (show ¬ p < 132 by omega), BitVec.getMsbD_zero]

theorem concat_bits256_getMsbD (e : BitVec 256) (c : BitVec 8) (p : Nat) :
    (concat .bits256 e c).getMsbD p = if p < 256 then e.getMsbD p else c.getMsbD (p - 256) := append_getMsbD e c p

/-- Settles O29: both widths' bitstreams are known bit by bit; `bits256` fills all 264 positions. -/
theorem concatLayout : Obligations.ConcatLayout := by
  intro w e c p hp
  cases w with
  | bits128 => exact concat_bits128_getMsbD e c p
  | bits256 => simpa [hp] using concat_bits256_getMsbD e c p

/-- Settles O30: an index below `word_count` is its group, any other is 0. -/
theorem groupsPartitionTheBitstream : Obligations.GroupsPartitionTheBitstream := by
  intro w full k
  have hk : (groups w full)[k] = if k.val < w.wordCount then group full k.val else 0 := groups_getElem w full k k.isLt
  rw [hk]
  constructor
  · intro h j hj
    rw [if_pos h, group_getMsbD full k.val j k.isLt hj]
  · exact fun h => if_neg (Nat.not_lt.2 h)

theorem Width.totalBits_eq (w : Width) : w.totalBits = 11 * w.wordCount := by cases w <;> rfl

theorem Width.wordCount_injective : Function.Injective Width.wordCount := by
  intro w v h
  cases w <;> cases v <;> simp at h ⊢

/-- Settles O31: 132 = 11 * 12 and 264 = 11 * 24. -/
theorem wordCountsAreExact : Obligations.WordCountsAreExact := ⟨rfl, rfl, Width.totalBits_eq⟩

/-! ### The range check -/

/-- Settles O32: of the moves of a block only `corrupt` raises WordlistCorrupt, after a range check that 2048 entries
pass. -/
theorem fullWordlistNeverCorrupt : Obligations.FullWordlistNeverCorrupt := by
  intro s t h hlen herr
  have hmove := step_move h
  generalize t.blk = b at hmove ⊢
  cases hmove with
  | stay | refused | wsel | initGood | putChar | defer | select | commit => exact herr
  | hardReset => simp [Block.reset]
  | openRun => simp
  | initFails e _ he | runError e he =>
    have hne : e ≠ .wordlistCorrupt := by rintro rfl; simp at he
    simpa using hne
  | corrupt w e src hp hr =>
    rw [inRange_of_le hlen] at hr
    cases hr

/-! ### The indices of a finished run -/

/-- Consecutive blocks of `m` positions, joined, are the positions in order. -/
theorem flatMap_range_blocks {α : Type} (f : Nat → α) (m n : Nat) :
    ((List.range n).flatMap fun k => (List.range m).map fun j => f (m * k + j)) = (List.range (m * n)).map f := by
  induction n with
  | zero => simp
  | succ n ih => simp [List.range_succ, List.flatMap_append, ih, Nat.mul_succ, List.range_add]

section
variable {b : Block} (h : b.ResultsAgree)
include h

theorem Block.ResultsAgree.index_eq {k : Nat} (hk : k < b.width.wordCount) : b.index k = group b.full k := by
  have hk24 : k < 24 := Nat.lt_of_lt_of_le hk b.width.wordCount_le
  rw [Block.index, dif_pos hk24]
  exact (h.groups ⟨k, hk24⟩).trans (if_pos hk)

theorem Block.ResultsAgree.indices_eq : b.indices = (List.range b.width.wordCount).map (group b.full) :=
  List.map_congr_left fun _ hk => h.index_eq (List.mem_range.1 hk)

theorem Block.ResultsAgree.idx_eq : b.idx = Machine.groups b.width b.full :=
  Vector.ext fun k hk => (h.groups ⟨k, hk⟩).trans (groups_getElem b.width b.full k hk).symm

end

/-- The groups below `word_count`, joined, are the bitstream: they neither overlap nor leave a gap (42_encoder.md
R162). -/
theorem flatMap_indexBits_group (w : Width) (full : BitVec 264) :
    ((List.range w.wordCount).map (group full)).flatMap indexBits = (List.range w.totalBits).map full.getMsbD := by
  rw [List.flatMap_map, Width.totalBits_eq, ← flatMap_range_blocks]
  refine List.flatMap_congr fun k hk => List.map_congr_left fun j hj => ?_
  have hk24 : k < 24 := Nat.lt_of_lt_of_le (List.mem_range.1 hk) w.wordCount_le
  exact group_getMsbD full k j hk24 (List.mem_range.1 hj)

/-- The entropy bits, then the checksum bits (42_encoder.md R161). -/
theorem map_concat_getMsbD (w : Width) (e : BitVec 256) (c : BitVec 8) :
    (List.range w.totalBits).map (concat w e c).getMsbD =
      (List.range w.entropyBits).map e.getMsbD ++
      (List.range w.checksumBits).map fun j => c.getMsbD (8 - w.checksumBits + j) := by
  have htotal : w.totalBits = w.entropyBits + w.checksumBits := rfl
  have h264 : w.totalBits ≤ 264 := by cases w <;> decide
  rw [htotal, List.range_add, List.map_append, List.map_map]
  congr 1
  · refine List.map_congr_left fun p hp => ?_
    have hp' : p < w.entropyBits := List.mem_range.1 hp
    rw [concatLayout w e c p (by omega), if_pos hp']
  · refine List.map_congr_left fun j hj => ?_
    have hj' : j < w.checksumBits := List.mem_range.1 hj
    rw [Function.comp_apply, concatLayout w e c _ (by omega), if_neg (by omega), if_pos (by omega),
      Nat.add_sub_cancel_left]

theorem Block.ResultsAgree.flatMap_indices {b : Block} (h : b.ResultsAgree) :
    b.indices.flatMap indexBits =
      (List.range b.width.entropyBits).map b.ent.getMsbD ++
      (List.range b.width.checksumBits).map fun j => b.cs.getMsbD (8 - b.width.checksumBits + j) := by
  rw [h.indices_eq, flatMap_indexBits_group, h.full, map_concat_getMsbD]

/-- Settles O33: the groups joined are FullBitstream up to `total_bits`, and that is entropy, then checksum. -/
theorem indicesReconstructTheBitstream : Obligations.IndicesReconstructTheBitstream :=
  fun _ hinv hdone => (hinv.results hdone).flatMap_indices

/-! ### The Mnemonic determines the results -/

theorem Block.indices_length (b : Block) : b.indices.length = b.width.wordCount := by simp [Block.indices]

/-- With distinct words the Mnemonic determines the indices (42_encoder.md R168). -/
theorem indices_eq_of_mnemonic_eq {W : Type} {wl : BitVec 11 → W} {b c : Block} (hwl : DistinctWords wl)
    (hb : b.phase = .done) (hc : c.phase = .done) (h : b.mnemonic wl = c.mnemonic wl) : b.indices = c.indices := by
  simp only [Block.mnemonic, hb, hc, if_true, Option.some.injEq] at h
  exact List.map_injective_iff.2 hwl h

section
variable {b c : Block} (hb : b.ResultsAgree) (hc : c.ResultsAgree)
include hb hc

/-- The joined indices carry every entropy bit, and the bits below them are 0 (10_state.md R30). -/
theorem Block.ResultsAgree.ent_eq_of_indices (hw : b.width = c.width) (h : b.indices = c.indices) : b.ent = c.ent := by
  have hjoin := congrArg (List.flatMap indexBits) h
  rw [hb.flatMap_indices, hc.flatMap_indices, hw] at hjoin
  have hbits := List.map_inj_left.1 (List.append_inj_left hjoin (by simp))
  rw [← hb.aligned, ← hc.aligned, hw]
  refine eq_of_getMsbD fun p hp => ?_
  rw [firstBits_getMsbD _ _ hp, firstBits_getMsbD _ _ hp]
  by_cases hN : p < c.width.entropyBits
  · rw [hbits p (List.mem_range.2 hN)]
  · simp [hN]

/-- Width and entropy determine every result: digest, checksum, bitstream, indices, each a function of those before
it (10_state.md R41 (f)). -/
theorem Block.ResultsAgree.results_eq (hw : b.width = c.width) (he : b.ent = c.ent) :
    b.dig = c.dig ∧ b.cs = c.cs ∧ b.full = c.full ∧ b.idx = c.idx := by
  have hdig : b.dig = c.dig := by rw [hb.digest, hc.digest, hw, he]
  have hcs : b.cs = c.cs := by rw [hb.checksum, hc.checksum, hw, hdig]
  have hfull : b.full = c.full := by rw [hb.full, hc.full, hw, he, hcs]
  exact ⟨hdig, hcs, hfull, by rw [hb.idx_eq, hc.idx_eq, hw, hfull]⟩

end

/-- Settles O34: the Mnemonic gives the indices, their number the width, their bits the entropy, and that the rest. -/
theorem mnemonicDeterminesTheEntropy : Obligations.MnemonicDeterminesTheEntropy := by
  intro W wl b c hwl hbinv hcinv hbdone hcdone h
  have hb := hbinv.results hbdone
  have hc := hcinv.results hcdone
  have hidx : b.indices = c.indices := indices_eq_of_mnemonic_eq hwl hbdone hcdone h
  have hw : b.width = c.width := Width.wordCount_injective (by rw [← b.indices_length, ← c.indices_length, hidx])
  have he : b.ent = c.ent := hb.ent_eq_of_indices hc hw hidx
  exact ⟨hw, he, hb.results_eq hc hw he⟩

end Sys2Proof.Machine
end

section
/-!
PROOF. Registers with fields (20_memory.md R63) as numbers, and the reads of the status registers (43_readout.md R191).
-/

namespace Sys2Proof.Machine

open Sys2Proof.Claims

/-! ### Fields as numbers -/

theorem field_toNat {k lo : Nat} (v : BitVec k) (h : lo + k ≤ 32) : (field lo v).toNat = 2 ^ lo * v.toNat := by
  have hv : 2 ^ lo * v.toNat < 2 ^ 32 :=
    calc 2 ^ lo * v.toNat < 2 ^ lo * 2 ^ k := Nat.mul_lt_mul_of_pos_left v.isLt (Nat.two_pow_pos lo)
      _ = 2 ^ (lo + k) := (Nat.pow_add 2 lo k).symm
      _ ≤ 2 ^ 32 := Nat.pow_le_pow_right (by decide) h
  rw [field, BitVec.toNat_shiftLeft, BitVec.toNat_setWidth_of_le (by omega), Nat.shiftLeft_eq, Nat.mul_comm,
    Nat.mod_eq_of_lt hv]

theorem field_zero {k : Nat} (v : BitVec k) : field 0 v = v.setWidth 32 := BitVec.shiftLeft_zero _

theorem field_zero_toNat {k : Nat} (v : BitVec k) (h : k ≤ 32) : (field 0 v).toNat = v.toNat := by
  rw [field_zero, BitVec.toNat_setWidth_of_le h]

/-- A field above everything that is set so far adds its own number. -/
theorem or_field_toNat {k lo : Nat} {a : Word32} (v : BitVec k) (ha : a.toNat < 2 ^ lo) (h : lo + k ≤ 32) :
    (a ||| field lo v).toNat = a.toNat + 2 ^ lo * v.toNat := by
  rw [BitVec.toNat_or, field_toNat v h, Nat.or_comm, ← Nat.two_pow_add_eq_or_of_lt ha, Nat.add_comm]

theorem or_flag_toNat {lo : Nat} {a : Word32} (b : Bool) (ha : a.toNat < 2 ^ lo) (h : lo + 1 ≤ 32) :
    (a ||| flag lo b).toNat = a.toNat + 2 ^ lo * b.toNat :=
  (or_field_toNat (BitVec.ofBool b) ha h).trans (by rw [BitVec.toNat_ofBool])

theorem phaseCode_toNat (p : Phase) : p.code.toNat = phaseNumber p := by cases p <;> rfl

theorem widthCode_toNat (w : Width) : w.code.toNat = if w = .bits256 then 1 else 0 := by cases w <;> rfl

theorem srcCode_toNat (c : Src) : c.code.toNat = srcNumber c := by cases c <;> rfl

theorem errCode_toNat (e : Option ErrKind) : (errCode e).toNat = errNumber e := by
  rcases e with _ | e
  · rfl
  · cases e <;> rfl

/-! ### The status registers -/

/-- The fields are added from bit 0 up, each above the sum so far. -/
theorem statusWord_toNat (b : Block) :
    (statusWord b).toNat = phaseNumber b.phase + (if b.width = .bits256 then 8 else 0) + 16 * b.wvalid.toNat +
      32 * b.cmderr.toNat + 256 * srcNumber b.src := by
  have hv := b.wvalid.toNat_lt
  have hc := b.cmderr.toNat_lt
  have h0 := field_zero_toNat b.phase.code (by decide)
  have h3 := or_field_toNat (lo := 3) b.width.code (a := field 0 b.phase.code) (by omega) (by decide)
  have h4 := or_flag_toNat (lo := 4) b.wvalid (h3.trans_lt (by omega)) (by decide)
  have h5 := or_flag_toNat (lo := 5) b.cmderr (h4.trans_lt (by omega)) (by decide)
  have h8 := or_field_toNat (lo := 8) b.src.code (h5.trans_lt (by omega)) (by decide)
  rw [statusWord, h8, h5, h4, h3, h0, phaseCode_toNat, widthCode_toNat, srcCode_toNat]
  split <;> omega

theorem wlstatWord_toNat (b : Block) :
    (wlstatWord b).toNat = b.wllen.toNat + 2 ^ 16 * b.wlmissing.toNat + 2 ^ 17 * b.wlmalformed.toNat +
      2 ^ 31 * b.wlchecked.toNat := by
  have hm := b.wlmissing.toNat_lt
  have hf := b.wlmalformed.toNat_lt
  have h0 := field_zero_toNat b.wllen (by decide)
  have h16 := or_flag_toNat (lo := 16) b.wlmissing (a := field 0 b.wllen) (by omega) (by decide)
  have h17 := or_flag_toNat (lo := 17) b.wlmalformed (h16.trans_lt (by omega)) (by decide)
  have h31 := or_flag_toNat (lo := 31) b.wlchecked (h17.trans_lt (by omega)) (by decide)
  rw [wlstatWord, h31, h17, h16, h0]

theorem errWord_toNat (e : Option ErrKind) : (field 0 (errCode e)).toNat = errNumber e := by
  rw [field_zero_toNat _ (by decide), errCode_toNat]

theorem cntWord_toNat (n : Fin 257) : (field 0 (BitVec.ofNat 9 n.val)).toNat = n.val := by
  rw [field_zero_toNat _ (by decide), BitVec.toNat_ofNat, Nat.mod_eq_of_lt (by omega)]

/-- Settles O55: each address is a register's offset, and its fields lie above one another. -/
theorem statusReads : Obligations.StatusReads := by
  intro s rest
  refine ⟨fun hp => ?_, fun hp => ?_, fun hp => ?_, fun hp => ?_, fun hp => ?_⟩
  · exact step_read (r := .id) hp (by simp)
  · exact ⟨_, step_read (r := .status) hp (by simp), statusWord_toNat s.blk⟩
  · exact ⟨_, step_read (r := .err) hp (by simp), errWord_toNat s.blk.err⟩
  · exact ⟨_, step_read (r := .wlstat) hp (by simp), wlstatWord_toNat s.blk⟩
  · exact ⟨_, step_read (r := .cnt) hp (by simp), cntWord_toNat s.blk.cnt⟩

end Sys2Proof.Machine
end

section
/-!
PROOF. The result registers (43_readout.md R186 to R188), and that they show nothing outside DONE (R192).
-/

namespace Sys2Proof.Machine

open Sys2Proof.Claims

/-! ### The indices -/

theorem oneBased_toNat (i : BitVec 11) : (oneBased i).toNat = i.toNat + 1 := by
  rw [oneBased, BitVec.toNat_add, BitVec.toNat_setWidth_of_le (by decide)]
  exact Nat.mod_eq_of_lt (by simp; omega)

theorem indexWord_toNat (i : BitVec 11) : (indexWord i).toNat = indexWordNumber i := by
  have h1 := oneBased_toNat i
  have h0 := field_zero_toNat i (by decide)
  have h16 := or_field_toNat (lo := 16) (oneBased i) (a := field 0 i) (by omega) (by decide)
  have h31 := or_flag_toNat (lo := 31) true (h16.trans_lt (by omega)) (by decide)
  rw [indexWord, BitVec.or_comm (flag 31 true ||| _), BitVec.or_comm (flag 31 true), ← BitVec.or_assoc, h31, h16, h0,
    h1, indexWordNumber, Bool.toNat_true]
  omega

theorem Block.index_val (b : Block) (k : Fin 24) : b.index k.val = b.idx[k] := dif_pos k.isLt

theorem idxWord_of_lt {b : Block} {k : Fin 24} (hd : b.phase = .done) (hk : k.val < b.width.wordCount) :
    idxWord b k.val = indexWord b.idx[k] := by
  rw [idxWord, if_pos ⟨hd, hk⟩, Block.index_val]

theorem idxWord_of_ge {b : Block} {k : Nat} (hk : b.width.wordCount ≤ k) : idxWord b k = 0 :=
  if_neg fun h => Nat.not_lt.2 hk h.2

theorem idxWord_of_not_done {b : Block} (hd : b.phase ≠ .done) (k : Nat) : idxWord b k = 0 := if_neg fun h => hd h.1

theorem lastWord_of_done {b : Block} {k : Fin 24} (hd : b.phase = .done) (hk : k.val = b.width.wordCount - 1) :
    lastWord b = indexWord b.idx[k] := by
  rw [lastWord, if_pos hd, ← hk, Block.index_val]

theorem lastWord_of_not_done {b : Block} (hd : b.phase ≠ .done) : lastWord b = 0 := if_neg hd

/-- Settles O53: the branches of `idxWord` and `lastWord`, and the number an index word shows. -/
theorem indexReads : Obligations.IndexReads := by
  intro s rest
  refine ⟨fun k hp => ⟨_, step_read (r := .idx k) hp (by simp), fun hd hk => ?_, fun _ hk => idxWord_of_ge hk,
    fun hd => idxWord_of_not_done hd k⟩, fun hp => ⟨_, step_read (r := .last) hp (by simp), fun hd hw => ?_,
    fun hd hw => ?_, lastWord_of_not_done⟩⟩
  · rw [readValue, idxWord_of_lt hd hk, indexWord_toNat]
  · rw [readValue, lastWord_of_done (k := 11) hd (by simp [hw]), indexWord_toNat]
    rfl
  · rw [readValue, lastWord_of_done (k := 23) hd (by simp [hw]), indexWord_toNat]
    rfl

/-! ### Checksum and geometry -/

theorem geomWord_of_not_done {b : Block} (hd : b.phase ≠ .done) : geomWord b = 0 := if_neg hd

/-- The four quantities that the width determines, packed (43_readout.md R188). -/
theorem geomWord_eq (b : Block) :
    geomWord b = if b.phase = .done then (if b.width = .bits128 then 0x4084040C else 0x81080818) else 0 := by
  rw [geomWord]
  cases b.width <;> rfl

/-- Settles O54: `CS` is the field at bit 0, and `GEOM` has one value for each width. -/
theorem checksumAndGeometryReads : Obligations.ChecksumAndGeometryReads := by
  intro s rest
  refine ⟨fun hp => ?_, fun hp => ?_⟩
  · rw [← field_zero]
    exact step_read (r := .cs) hp (by simp)
  · rw [← geomWord_eq]
    exact step_read (r := .geom) hp (by simp)

/-! ### Outside DONE -/

/-- The registers from `GEOM` up show results: empty ones outside DONE (10_state.md R41 (a)), or none. -/
theorem readValue_of_not_done {b : Block} (hinv : b.Inv) (hd : b.phase ≠ .done) {r : Reg}
    (hr : 0x01C ≤ r.offset.toNat) : readValue b r = 0 := by
  obtain ⟨hent, hdig, hcs, hfull, -⟩ := hinv.noResult hd
  cases r with
  | id | cmd | status | err | wlstat | cnt | wsel => simp [Reg.offset] at hr
  | geom => exact geomWord_of_not_done hd
  | ent w => simp [readValue, hent]
  | dig w => simp [readValue, hdig]
  | cs => simp [readValue, hcs, field_zero]
  | last => exact lastWord_of_not_done hd
  | full w => simp [readValue, hfull]
  | idx k => exact idxWord_of_not_done hd k

/-- Settles O56: an accepted read is the read of a register, and those from 0x01C up show 0. -/
theorem resultsReadZeroOutsideDone : Obligations.ResultsReadZeroOutsideDone := by
  intro s rest a hinv hd hp hacc ha
  obtain ⟨r, hcmd, rfl⟩ := exists_reg_of_acceptedRead hacc
  rw [step_read hp hcmd, readValue_of_not_done hinv hd ha]

end Sys2Proof.Machine
end

section
/-!
PROOF. The wordlist port and the views EntropyValue and Mnemonic (43_readout.md R182, R189, R190).
-/

namespace Sys2Proof.Machine

/-! ### The wordlist port -/

theorem step_writeWsel {s : State} {rest : List Event} {v : Word32}
    (hp : s.pending = .write (Reg.offset .wsel) v :: rest) :
    step s = .next (((s.accept rest).respond none).withBlk (s.blk.writeWsel v)) := by
  have hacc : ¬ refuses .write (Reg.offset .wsel) = true := by decide
  rw [step_cons hp, runEvent, memWrite, if_neg hacc, if_neg (by decide)]
  rfl

theorem Block.wlEn_iff (b : Block) : b.wlEn = true ↔ b.phase = .done ∧ b.wsel.toNat < b.width.wordCount := by
  simp [Block.wlEn]

section
variable {b : Block} {k : Fin 24}

theorem Block.wlAddr_eq_idx (h : b.wlEn = true) (hk : k.val = b.wsel.toNat) : b.wlAddr = b.idx[k] := by
  rw [Block.wlAddr, if_pos h, ← hk, Block.index_val]

theorem Block.wlData_eq_idx {W : Type} (wl : BitVec 11 → W) (h : b.wlEn = true) (hk : k.val = b.wsel.toNat) :
    b.wlData wl = some (wl b.idx[k]) := by
  rw [Block.wlData, if_pos h, Block.wlAddr_eq_idx h hk]

end

theorem Block.wlAddr_of_not_wlEn {b : Block} (h : b.wlEn = false) : b.wlAddr = 0 := by
  rw [Block.wlAddr, h]
  rfl

/-- The index selected by `WSEL` is one of the finished run, and the run committed only indices in range (10_state.md
R41 (f)). -/
theorem Block.Inv.wlAddr_lt {b : Block} (hinv : b.Inv) (h : b.wlEn = true) : b.wlAddr.toNat < b.wllen.toNat := by
  obtain ⟨hd, hw⟩ := b.wlEn_iff.1 h
  have hk : b.wsel.toNat < 24 := Nat.lt_of_lt_of_le hw b.width.wordCount_le
  rw [Block.wlAddr_eq_idx (k := ⟨_, hk⟩) h rfl]
  exact (hinv.results hd).range ⟨_, hk⟩ hw

/-- Settles O51: the equation of the write, the read of a register, and the port by whether `wl_en` is 1. -/
theorem wselAndTheWordlistPort : Obligations.WselAndTheWordlistPort := by
  refine ⟨fun s rest => ⟨fun v hp => ⟨_, step_writeWsel hp, rfl⟩, fun hp => ?_⟩, fun W wl b => ?_⟩
  · rw [← field_zero]
    exact step_read (r := .wsel) hp (by simp)
  · exact ⟨b.wlEn_iff, fun h k hk => ⟨Block.wlAddr_eq_idx h hk, Block.wlData_eq_idx wl h hk⟩,
      Block.wlAddr_of_not_wlEn, fun hinv => hinv.wlAddr_lt⟩

/-! ### The views -/

theorem Block.mnemonic_of_not_done {W : Type} (wl : BitVec 11 → W) {b : Block} (hd : b.phase ≠ .done) :
    b.mnemonic wl = none := if_neg hd

theorem Block.mnemonic_of_done {W : Type} (wl : BitVec 11 → W) {b : Block} (hd : b.phase = .done) :
    b.mnemonic wl = some (b.indices.map wl) := if_pos hd

theorem Block.indices_getElem? {b : Block} {k : Fin 24} (hk : k.val < b.width.wordCount) :
    b.indices[k.val]? = some b.idx[k] := by
  simp [Block.indices, hk, Block.index_val]

/-- Settles O57: word `k` of the Mnemonic and the answer of the port under `WSEL` = `k` are both `WL(IDX[k])`. -/
theorem mnemonicIsReadThroughWsel : Obligations.MnemonicIsReadThroughWsel := by
  intro W wl b
  refine ⟨Block.mnemonic_of_not_done wl, fun hd => ⟨_, Block.mnemonic_of_done wl hd, ?_, fun k hk => ?_⟩⟩
  · rw [List.length_map, Block.indices_length]
  · have hwsel : (BitVec.ofNat 5 k.val).toNat = k.val := Nat.mod_eq_of_lt (by omega)
    refine ⟨by rw [List.getElem?_map, Block.indices_getElem? hk, Option.map_some], ?_⟩
    refine Block.wlData_eq_idx (b := { b with wsel := BitVec.ofNat 5 k.val }) wl ?_ hwsel.symm
    exact (Block.wlEn_iff _).2 ⟨hd, hwsel.trans_lt hk⟩

theorem entropyOf_toNat (w : Width) (e : BitVec 256) : (entropyOf w e).toNat = e.toNat / 2 ^ (256 - w.entropyBits) := by
  have hN : 256 - w.entropyBits + w.entropyBits = 256 := by cases w <;> rfl
  have hlt : e.toNat / 2 ^ (256 - w.entropyBits) < 2 ^ w.entropyBits :=
    Nat.div_lt_of_lt_mul (by rw [← Nat.pow_add, hN]; exact e.isLt)
  rw [entropyOf, BitVec.extractLsb'_toNat, Nat.shiftRight_eq_div_pow, Nat.mod_eq_of_lt hlt]

/-- Settles O60: the slice of the first N bits is the quotient of the whole by what the bits below it count. -/
theorem entropyValueIsTheBitsAsANumber : Obligations.EntropyValueIsTheBitsAsANumber :=
  fun b => ⟨entropyOf_toNat b.width b.ent, (entropyOf b.width b.ent).isLt⟩

end Sys2Proof.Machine
end

section
/-!
PROOF. The random path but DRAW: SEL (44_entropy_source.md R201) and END in RAND, the manual override (R204).
-/

namespace Sys2Proof.Machine

open Sys2Proof.Claims

/-! ### SEL -/

theorem decode_selWord (c : Char8) : decode (0x00005000 + c.setWidth 32) = .command (.sel c) := by
  rw [decode_eq_command_iff, encode_eq_add]
  rfl

theorem exec_sel_illegal {s : State} (c : Char8) (hp : s.blk.phase ≠ .select) :
    exec (.sel c) s = .next (withCmderr s) :=
  exec_illegal (by simpa [legal] using hp)

theorem exec_sel {s : State} (c : Char8) (hp : s.blk.phase = .select) :
    exec (.sel c) s = .next (s.withBlk (s.blk.select c)) :=
  exec_legal (by simpa [legal] using hp) (by simp)

theorem Block.select_of_other {c : Char8} (h0 : c ≠ 0x30) (h1 : c ≠ 0x31) (b : Block) :
    b.select c = errorEntry .invalidWidthSelector b := by
  rw [Block.select, selectedWidth, if_neg h0, if_neg h1]
  exact raise_eq_errorEntry _ b

/-- Settles O20: SEL is the selection, which each of the two characters determines and any other fails. -/
theorem selFixesTheWidth : Obligations.SelFixesTheWidth := by
  refine ⟨decode_selWord, fun c s => exec_sel_illegal c, fun s hp =>
    ⟨exec_sel 0x30 hp, exec_sel 0x31 hp, fun c h0 h1 => ?_⟩⟩
  rw [exec_sel c hp, Block.select_of_other h0 h1]
  rfl

/-! ### END in RAND -/

theorem exec_endText_illegal {s : State} (ht : s.blk.phase ≠ .text) (hr : s.blk.phase ≠ .rand) :
    exec .endText s = .next (withCmderr s) :=
  exec_illegal (by simp [legal, ht, hr])

theorem exec_endText_of_rand {s : State} (hp : s.blk.phase = .rand) :
    exec .endText s = .next (s.withBlk (s.blk.endInRand hash256)) := by
  have hl : legal .endText s.blk.phase s.blk.cnt = true := by simp [legal, hp]
  have heff : s.blk.endEffect hash256 = s.blk.endInRand hash256 := if_pos hp
  rw [exec_legal hl (by simp), effect, heff]

theorem Block.endInRand_of_format {b : Block} (hash : HashFun) (hb : b.allbin = false) :
    b.endInRand hash = errorEntry .invalidInputFormat b := by
  rw [Block.endInRand, if_pos hb, raise_eq_errorEntry]

section

variable {b : Block} (hash : HashFun) (hb : b.allbin = true)
include hb

theorem Block.endInRand_of_short (hn : b.cnt.val < b.width.entropyBits) :
    b.endInRand hash = errorEntry .insufficientEntropy b := by
  rw [Block.endInRand, if_neg (by simp [hb]), if_pos hn, raise_eq_errorEntry]

theorem Block.endInRand_of_long (hn : b.width.entropyBits ≤ b.cnt.val) :
    b.endInRand hash = b.pipeline hash b.width (firstBits b.width b.binbuf) .manual := by
  rw [Block.endInRand, if_neg (by simp [hb]), if_neg (Nat.not_lt.2 hn)]

end

/-- A binary text of N characters or more. -/
theorem runsPipeline_endText_of_rand {s : State} (hp : s.blk.phase = .rand) (hb : s.blk.allbin = true)
    (hn : s.blk.width.entropyBits ≤ s.blk.cnt.val) :
    runsPipeline .endText s s.blk.width (firstBits s.blk.width s.blk.binbuf) .manual :=
  runsPipeline_of_exec (by rw [exec_endText_of_rand hp, Block.endInRand_of_long _ hb hn])

/-- Settles O19: the branches of R204 in its order; the last one's first N bits are spelled out for each width. -/
theorem endInRandIsTheManualOverride : Obligations.EndInRandIsTheManualOverride := by
  refine ⟨decode_encode .endText, fun s => exec_endText_illegal, fun s hp => ⟨?format, ?short, ?bits128, ?bits256⟩⟩
  case format =>
    intro hb
    rw [exec_endText_of_rand hp, Block.endInRand_of_format _ hb]
    rfl
  case short =>
    intro hb hn
    rw [exec_endText_of_rand hp, Block.endInRand_of_short _ hb hn]
    rfl
  case bits128 =>
    intro hb hw hn
    have h := runsPipeline_endText_of_rand hp hb (by rw [hw]; exact hn)
    rwa [hw, firstBits_bits128] at h
  case bits256 =>
    intro hb hw hn
    have h := runsPipeline_endText_of_rand hp hb (by rw [hw]; exact hn.ge)
    rwa [hw, firstBits_bits256] at h

end Sys2Proof.Machine
end

section
/-!
PROOF. DRAW (44_entropy_source.md R202, R203): the N answers of the Bit Source are those of `answerAt`, and DRAW runs
the pipeline on them.
-/

namespace Sys2Proof.Machine

open Sys2Proof.Claims

/-! ### The answers of the Bit Source -/

/-- A source that answers one request more gives its next answer. -/
theorem BitSource.Answers.answer_eq {src : BitSource} {n : Nat} (h : src.Answers (n + 1)) :
    src.answer = some (answerAt src 0, afterDraws src 1) := by
  obtain ⟨queue, live, requests⟩ := src
  cases queue with
  | nil =>
    have hlive : live = true := by simpa [BitSource.Answers] using h
    simp [BitSource.answer, hlive, answerAt, afterDraws]
  | cons b q => rfl

theorem answers_afterDraws {src : BitSource} {m n : Nat} (h : src.Answers (n + m)) :
    (afterDraws src m).Answers n := by
  refine h.imp id fun hq => ?_
  rw [afterDraws, List.length_drop]
  exact Nat.le_sub_of_add_le hq

theorem answerAt_afterDraws (src : BitSource) (m p : Nat) :
    answerAt (afterDraws src m) p = answerAt src (m + p) := by
  have hlt : p < src.queue.length - m ↔ m + p < src.queue.length := Nat.lt_sub_iff_add_lt'
  simp [answerAt, afterDraws, hlt, Nat.add_assoc]

theorem afterDraws_afterDraws (src : BitSource) (m n : Nat) :
    afterDraws (afterDraws src m) n = afterDraws src (m + n) := by
  simp [afterDraws, Nat.add_assoc]

/-- The first `n` answers, in order. -/
def firstAnswers (src : BitSource) (n : Nat) : List Bool := (List.range n).map (answerAt src)

theorem firstAnswers_succ (src : BitSource) (n : Nat) :
    firstAnswers src (n + 1) = answerAt src 0 :: firstAnswers (afterDraws src 1) n := by
  simp [firstAnswers, List.range_succ_eq_map, answerAt_afterDraws, Nat.add_comm]

theorem firstAnswers_getD (src : BitSource) (n p : Nat) :
    (firstAnswers src n).getD p false = (decide (p < n) && answerAt src p) := by
  by_cases hp : p < n <;> simp [firstAnswers, hp]

/-- Of a source that answers `n` requests `n` draws take exactly its next `n` answers. -/
theorem BitSource.Answers.drawBits_eq {src : BitSource} {n : Nat} (h : src.Answers n) :
    drawBits n src = some (firstAnswers src n, afterDraws src n) := by
  induction n generalizing src with
  | zero => rfl
  | succ n ih =>
    simp only [drawBits, h.answer_eq, ih (answers_afterDraws h), firstAnswers_succ, afterDraws_afterDraws, Nat.add_comm]

/-! ### DRAW -/

theorem exec_draw_illegal {s : State} (h : s.blk.phase ≠ .rand ∨ s.blk.cnt ≠ 0) :
    exec .draw s = .next (withCmderr s) := by
  refine exec_illegal ?_
  rcases h with hp | hc
  · simp [legal, hp]
  · simp [legal, hc]

/-- The entropy of a DRAW: the first N answers, the first the most significant bit (R202). -/
def State.drawnEntropy (s : State) : BitVec 256 := leftAligned (firstAnswers s.bits s.blk.width.entropyBits)

theorem State.drawnEntropy_getMsbD (s : State) {p : Nat} (hp : p < 256) :
    s.drawnEntropy.getMsbD p = (decide (p < s.blk.width.entropyBits) && answerAt s.bits p) := by
  rw [State.drawnEntropy, leftAligned_getMsbD _ _ hp, firstAnswers_getD]

theorem exec_draw_answered {s : State} (hp : s.blk.phase = .rand) (hc : s.blk.cnt = 0)
    (ha : s.bits.Answers s.blk.width.entropyBits) :
    exec .draw s = .next { s with
      blk := s.blk.pipeline hash256 s.blk.width s.drawnEntropy .drawn
      bits := afterDraws s.bits s.blk.width.entropyBits } :=
  exec_draw (by simp [legal, hp, hc]) ha.drawBits_eq

/-- Settles O22: DRAW runs the pipeline on the drawn entropy, and the range check alone decides its outcome. -/
theorem drawRunsThePipeline : Obligations.DrawRunsThePipeline := by
  refine ⟨decode_encode .draw, fun s => ⟨fun hp hc ha =>
    ⟨s.drawnEntropy, fun p => s.drawnEntropy_getMsbD, fun hf => ?commits, fun hf => ?corrupt⟩, exec_draw_illegal⟩⟩
  case commits => rw [exec_draw_answered hp hc ha, pipeline_of_fits hf]
  case corrupt => rw [exec_draw_answered hp hc ha, pipeline_of_not_fits hf]

/-- Settles O21: O22's commit, since 2048 entries always pass the range check. -/
theorem drawCommitsTheDrawnBits : Obligations.DrawCommitsTheDrawnBits := by
  intro s hp hc hlen ha
  obtain ⟨e, hbits, hcommits, -⟩ := (drawRunsThePipeline.2 s).1 hp hc ha
  exact ⟨e, hbits, hcommits (fits_of_le hlen)⟩

end Sys2Proof.Machine
end

section
/-!
PROOF. The legality matrix (45_control.md R224) and the illegal command (R223): the model's `legal` is the written-out
matrix, and where it says no a command only sets `CMDERR`.
-/

namespace Sys2Proof.Machine

open Sys2Proof.Claims

theorem legal_iff_executes (i : Instr) (p : Phase) (cnt : Fin 257) : legal i p cnt = true ↔ executes i p cnt := by
  cases i with
  | nop => cases p <;> simp [legal, executes, legalIn]
  | init | clear | putc | endText | sel | draw => simp [legal, executes, legalIn, or_assoc]

theorem legal_eq_false_of_not_executes {i : Instr} {p : Phase} {cnt : Fin 257} (h : ¬ executes i p cnt) :
    legal i p cnt = false :=
  Bool.eq_false_iff.2 (mt (legal_iff_executes i p cnt).1 h)

/-- Settles O4: outside the matrix every command is the illegal command. -/
theorem commandOutsideItsPhasesOnlySetsCmderr : Obligations.CommandOutsideItsPhasesOnlySetsCmderr :=
  fun _ _ h => exec_illegal (legal_eq_false_of_not_executes h)

/-- Settles O3: a word that is refused is malformed, which the write itself answers, or decodes to a command that the
matrix refuses in this phase. -/
theorem illegalCommandOnlySetsCmderr : Obligations.IllegalCommandOnlySetsCmderr := by
  intro s v rest hp hno
  cases hd : decode v with
  | illegal why => exact ⟨_, (step_cons hp).trans (runEvent_illegal hd), rfl⟩
  | command i =>
    have hi : ¬ executes i s.blk.phase s.blk.cnt := fun hx => hno ⟨i, (decodeFollowsFieldTests v i).1 hd, hx⟩
    exact ⟨_, (stepRunsDecodedCommand s v rest i hp hd).trans (commandOutsideItsPhasesOnlySetsCmderr i _ hi), rfl⟩

end Sys2Proof.Machine
end

section
/-!
PROOF. NOP, INIT and CLEAR (45_control.md R220 to R222): their words, and what each makes of the block.
-/

namespace Sys2Proof.Machine

open Sys2Proof.Claims

/-! ### NOP -/

/-- A word below 0x100 is all argument (30_encoding.md R90). -/
theorem fieldsOf_setWidth (n : BitVec 8) :
    fieldsOf (n.setWidth 32) = { zeroHi := 0, op := 0, zeroLo := 0, arg := n } := by
  have hword : n.setWidth 32 = wordOf { zeroHi := 0, op := 0, zeroLo := 0, arg := n } := by
    simp [wordOf, BitVec.setWidth_eq_append]
  rw [hword, fieldsOf_wordOf]

/-- Of the words below 0x100 only 0 is a command's: their opcode is NOP's, whose argument is zero (R92). -/
theorem eq_zero_of_decode_setWidth {n : BitVec 8} {i : Instr} (h : decode (n.setWidth 32) = .command i) : n = 0 := by
  have hf := (fieldsOf_setWidth n).symm.trans (fieldsOf_of_decode h)
  simp only [Instr.fields, CommandWord.mk.injEq, true_and] at hf
  obtain ⟨hop, harg⟩ := hf
  cases i with
  | nop => exact harg
  | init | clear | putc | endText | sel | draw => simp [Instr.opcode] at hop

/-- NOP is legal in every phase and its effect is none. -/
theorem exec_nop (s : State) : exec .nop s = .next s := exec_legal rfl (by simp)

/-- Settles O11, by the decoder's inverse and NOP's empty effect. -/
theorem nopLeavesEverything : Obligations.NopLeavesEverything :=
  ⟨decode_encode .nop, fun _ hn _ hd => hn (eq_zero_of_decode_setWidth hd), exec_nop⟩

/-! ### INIT -/

theorem exec_init {s : State} (hp : s.blk.phase = .reset) :
    exec .init s = .next (s.withBlk (s.blk.initialise s.provider)) :=
  exec_legal (by simp [legal, hp]) (by simp)

theorem exec_init_illegal {s : State} (hp : s.blk.phase ≠ .reset) : exec .init s = .next (withCmderr s) :=
  exec_illegal (by simpa [legal] using hp)

section

variable {p : ProviderPort} {b : Block}

theorem Block.initialise_of_good (hm : p.missing = false) (hf : p.malformed = false) :
    b.initialise p = { b.latchProvider p with phase := .text } := by
  rw [Block.initialise, if_neg (by simp [hm]), if_neg (by simp [hf])]

theorem Block.initialise_of_missing (hm : p.missing = true) :
    b.initialise p = (errorEntry .wordlistMissing b).latchProvider p := by
  rw [Block.initialise, if_pos hm, raise_eq_errorEntry]
  rfl

theorem Block.initialise_of_malformed (hm : p.missing = false) (hf : p.malformed = true) :
    b.initialise p = (errorEntry .wordlistMalformed b).latchProvider p := by
  rw [Block.initialise, if_neg (by simp [hm]), if_pos hf, raise_eq_errorEntry]
  rfl

end

/-- Settles O12, one verdict of the provider a clause: the latched verdict bits are those the clause supposes. -/
theorem initTakesTheProvidersVerdict : Obligations.InitTakesTheProvidersVerdict := by
  refine ⟨decode_encode .init, fun s => ⟨fun hp => ⟨?good, ?missing, ?malformed⟩, exec_init_illegal⟩⟩
  case good =>
    intro hm hf
    rw [exec_init hp, Block.initialise_of_good hm hf, Block.latchProvider, hm, hf]
    rfl
  case missing =>
    intro hm
    rw [exec_init hp, Block.initialise_of_missing hm, Block.latchProvider, hm]
    rfl
  case malformed =>
    intro hm hf
    rw [exec_init hp, Block.initialise_of_malformed hm hf, Block.latchProvider, hm, hf]
    rfl

/-! ### CLEAR -/

theorem legal_clear_iff (p : Phase) (cnt : Fin 257) : legal .clear p cnt = true ↔ p ≠ .reset ∧ p ≠ .fatal := by
  cases p <;> simp [legal]

theorem exec_clear {s : State} (hr : s.blk.phase ≠ .reset) (hf : s.blk.phase ≠ .fatal) :
    exec .clear s = .next (s.withBlk s.blk.openRun) :=
  exec_legal ((legal_clear_iff _ _).2 ⟨hr, hf⟩) (by simp)

theorem exec_clear_illegal {s : State} (hp : s.blk.phase = .reset ∨ s.blk.phase = .fatal) :
    exec .clear s = .next (withCmderr s) :=
  exec_illegal (by rcases hp with hp | hp <;> simp [legal, hp])

/-- Settles O13: where CLEAR executes its writes are those of `Block.openRun`. -/
theorem clearOpensFreshRun : Obligations.ClearOpensFreshRun :=
  ⟨decode_encode .clear, fun _ => ⟨exec_clear, exec_clear_illegal⟩⟩

end Sys2Proof.Machine
end

section
/-!
PROOF. The table of phase transitions (45_control.md R225).
-/

namespace Sys2Proof.Machine

open Sys2Proof.Claims

/-- The pipeline ends in DONE, or in FATAL with WordlistCorrupt (42_encoder.md R170). -/
theorem pipeline_phase (hash : HashFun) (w : Width) (e : BitVec 256) (src : Src) (b : Block) :
    (b.pipeline hash w e src).phase = .done ∨
      (b.pipeline hash w e src).phase = .fatal ∧ (b.pipeline hash w e src).err = some .wordlistCorrupt := by
  rw [pipeline_eq]
  split
  · exact .inl rfl
  · exact .inr ⟨rfl, rfl⟩

/-- END in TEXT takes a row of R225, by the first test of R123 that holds. -/
theorem endInText_transition {b : Block} (hash : HashFun) (hp : b.phase = .text) :
    transition .endText b.phase (b.endInText hash).phase (b.endInText hash).err := by
  have err (k : ErrKind) (hq : k.phase = .error)
      (hk : some k ∈ [some .insufficientEntropy, some .invalidHexLength, some ErrKind.invalidInputFormat]) :
      transition .endText b.phase (b.raise k).phase (b.raise k).err :=
    .inl ⟨hp, .inr (.inr (.inl ⟨hq, hk⟩))⟩
  have pipe (w : Width) (e : BitVec 256) (src : Src) :
      transition .endText b.phase (b.pipeline hash w e src).phase (b.pipeline hash w e src).err :=
    .inl ⟨hp, .inr ((pipeline_phase hash w e src b).imp id .inr)⟩
  unfold Block.endInText
  split
  · exact .inl ⟨hp, .inl rfl⟩
  split
  · unfold Block.normBinary
    split
    · exact err _ rfl (by simp)
    split <;> exact pipe _ _ _
  split
  · unfold Block.normHex
    split
    · exact pipe _ _ _
    split
    · exact pipe _ _ _
    · exact err _ rfl (by simp)
  · exact err _ rfl (by simp)

/-- END in RAND takes a row of R225, by the first test of R204 that holds. -/
theorem endInRand_transition {b : Block} (hash : HashFun) (hp : b.phase = .rand) :
    transition .endText b.phase (b.endInRand hash).phase (b.endInRand hash).err := by
  unfold Block.endInRand
  split
  · exact .inr ⟨hp, .inr (.inl ⟨rfl, by simp⟩)⟩
  split
  · exact .inr ⟨hp, .inr (.inl ⟨rfl, by simp⟩)⟩
  · exact .inr ⟨hp, (pipeline_phase hash _ _ _ b).imp id .inr⟩

theorem select_transition {b : Block} (c : Char8) (hp : b.phase = .select) :
    transition (.sel c) b.phase (b.select c).phase (b.select c).err := by
  by_cases h0 : c = 0x30
  · subst h0
    exact ⟨hp, .inl ⟨.inl rfl, rfl⟩⟩
  by_cases h1 : c = 0x31
  · subst h1
    exact ⟨hp, .inl ⟨.inr rfl, rfl⟩⟩
  · rw [Block.select_of_other h0 h1]
    exact ⟨hp, .inr ⟨h0, h1, rfl, rfl⟩⟩

theorem initialise_transition {b : Block} (p : ProviderPort) (hp : b.phase = .reset) :
    transition .init b.phase (b.initialise p).phase (b.initialise p).err := by
  unfold Block.initialise
  split
  · exact ⟨hp, .inr ⟨rfl, .inl rfl⟩⟩
  split
  · exact ⟨hp, .inr ⟨rfl, .inr rfl⟩⟩
  · exact ⟨hp, .inl rfl⟩

/-- A command that executes keeps the phase (NOP and PUTC) or takes a row of R225. -/
theorem effect_transition {p : ProviderPort} {i : Instr} {b : Block} (bs : List Bool)
    (hl : legal i b.phase b.cnt = true) :
    (effect p bs i b).phase = b.phase ∨ transition i b.phase (effect p bs i b).phase (effect p bs i b).err := by
  obtain ⟨hmem, -⟩ := (legal_iff_executes i b.phase b.cnt).1 hl
  cases i with
  | nop => exact .inl rfl
  | putc c => exact .inl rfl
  | init => exact .inr (initialise_transition p (List.mem_singleton.1 hmem))
  | clear => exact .inr ⟨hmem, rfl⟩
  | endText =>
    have hp : b.phase = .text ∨ b.phase = .rand := by simpa [legalIn] using hmem
    rcases hp with hp | hp
    · rw [effect, Block.endEffect, if_neg (by simp [hp])]
      exact .inr (endInText_transition _ hp)
    · rw [effect, Block.endEffect, if_pos hp]
      exact .inr (endInRand_transition _ hp)
  | sel c => exact .inr (select_transition c (List.mem_singleton.1 hmem))
  | draw => exact .inr ⟨List.mem_singleton.1 hmem, pipeline_phase _ _ _ _ b⟩

/-- Settles O41: only a reset or a command that executes changes the phase, and the command takes a row of R225. -/
theorem phaseTransitionsAreThoseListed : Obligations.PhaseTransitionsAreThoseListed := by
  intro s t h
  have hcause := step_blockCause h
  generalize t.blk = b at hcause ⊢
  cases hcause with
  | stay | refused | wsel => exact .inl rfl
  | hardReset rest hp => exact .inr (.inl ⟨rfl, rest, hp⟩)
  | command i bs hr hl => exact (effect_transition bs hl).imp id fun ht => .inr ⟨i, hr, ht⟩

end Sys2Proof.Machine
end

section
/-!
PROOF. What CLEAR and the error sequence leave of a run (45_control.md R222, 60_exceptions.md R250): nothing.
-/

namespace Sys2Proof.Machine

open Sys2Proof.Claims

/-- The block is the reset block but for the phase, the error, `CMDERR`, `WSEL` and the `WL*` elements. -/
def Block.HoldsNoRun (b : Block) : Prop :=
  b = { resetBlock with
    phase := b.phase, err := b.err, cmderr := b.cmderr, wsel := b.wsel
    wllen := b.wllen, wlmissing := b.wlmissing, wlmalformed := b.wlmalformed, wlchecked := b.wlchecked }

theorem Block.openRun_holdsNoRun (b : Block) : b.openRun.HoldsNoRun := rfl

theorem Block.raise_holdsNoRun (e : ErrKind) (b : Block) : (b.raise e).HoldsNoRun := rfl

/-- A move that leaves an error where none was is the error sequence. -/
theorem BlockMove.holdsNoRun {p : ProviderPort} {b b' : Block} (m : BlockMove p b b') (h : b.err = none)
    (h' : b'.err ≠ none) : b'.HoldsNoRun := by
  cases m with
  | stay | refused | wsel | initGood | putChar | defer | select | commit => exact absurd h h'
  | hardReset | openRun => exact absurd rfl h'
  | initFails e => exact Block.raise_holdsNoRun e _
  | runError e => exact Block.raise_holdsNoRun e b
  | corrupt => exact Block.raise_holdsNoRun _ b

/-- A command is refused, or has its effect on the block (`exec_cases` without the Bit Source). -/
theorem exec_blk {i : Instr} {s t : State} (h : exec i s = .next t) :
    (legal i s.blk.phase s.blk.cnt = false ∧ t.blk = s.blk.setCmderr) ∨
      ∃ bs, t.blk = effect s.provider bs i s.blk := by
  obtain ⟨hl, rfl⟩ | ⟨-, -, rfl⟩ | ⟨bs, src, rfl, -, -, rfl⟩ := exec_cases h
  · exact .inl ⟨hl, rfl⟩
  · exact .inr ⟨[], rfl⟩
  · exact .inr ⟨bs, rfl⟩

/-- Settles O46: the command was not refused, so it kept `CMDERR` and, but for CLEAR, `WSEL`; it wiped the run by
CLEAR's effect or by the error sequence. -/
theorem nothingOfTheRunSurvives : Obligations.NothingOfTheRunSurvives := by
  intro i s t h hcase
  obtain ⟨hl, hblk⟩ | ⟨bs, hblk⟩ := exec_blk h
  · exfalso
    rcases hcase with ⟨rfl, hr, hf⟩ | ⟨hnone, herr⟩
    · rw [(legal_clear_iff _ _).2 ⟨hr, hf⟩] at hl
      cases hl
    · exact herr (by rw [hblk, Block.setCmderr_err, hnone])
  · have hwiped : t.blk.HoldsNoRun := by
      rcases hcase with ⟨rfl, -, -⟩ | ⟨hnone, herr⟩
      · rw [hblk]
        exact s.blk.openRun_holdsNoRun
      · exact (exec_move h).holdsNoRun hnone herr
    have hcmderr : t.blk.cmderr = s.blk.cmderr := by rw [hblk, effect_cmderr]
    have hwsel : t.blk.wsel = if i = .clear then 0 else s.blk.wsel := by
      split
      · subst i
        rw [hblk]
        rfl
      · rw [hblk, effect_wsel ‹_›]
    rw [← hcmderr, ← hwsel]
    exact hwiped

end Sys2Proof.Machine
end

section
/-!
PROOF. The errors (60_exceptions.md): which command raises which kind (R240), that it does so by the one error sequence
(R250), and that an error stays until CLEAR or reset (R252, R253).
-/

namespace Sys2Proof.Machine

open Sys2Proof.Claims

/-! ### Raising an error -/

/-- The block the error sequence of command `i` starts from: INIT has latched the provider's outputs by then
(45_control.md R221), every other command has written nothing. -/
def State.raisingBlock (i : Instr) (s : State) : Block :=
  if i = .init then s.blk.latchProvider s.provider else s.blk

/-- An error kind in the block `b` that command `i` leaves when run in `s` is one `i` raises there (R240), and `b` came
of the error sequence (R250). -/
def RaisesAsListed (i : Instr) (s : State) (b : Block) : Prop :=
  ∀ e, b.err = some e → raisedBy e i s ∧ b = (s.raisingBlock i).raise e

section

variable {i : Instr} {s : State} {b : Block}

theorem RaisesAsListed.of_noError (h : b.err = none) : RaisesAsListed i s b := by
  intro e he
  rw [h] at he
  cases he

theorem RaisesAsListed.of_raise {k : ErrKind} (hk : raisedBy k i s) :
    RaisesAsListed i s ((s.raisingBlock i).raise k) := by
  intro e he
  obtain rfl : k = e := Option.some.inj he
  exact ⟨hk, rfl⟩

end

/-- The pipeline raises WordlistCorrupt alone, and only if the range check can fail (42_encoder.md R165). -/
theorem pipeline_raisesAsListed {i : Instr} {s : State} (hi : i = .endText ∨ i = .draw) (hn : s.blk.err = none)
    (w : Width) (e : BitVec 256) (src : Src) : RaisesAsListed i s (s.blk.pipeline hash256 w e src) := by
  rw [pipeline_eq]
  split
  case isTrue => exact .of_noError hn
  case isFalse hr =>
    have hlen : s.blk.wllen.toNat < 2048 := Nat.lt_of_not_le (mt inRange_of_le hr)
    have hbase : s.raisingBlock i = s.blk := if_neg (by rcases hi with rfl | rfl <;> simp)
    rw [← hbase]
    exact .of_raise ⟨hi, hlen⟩

theorem Block.normBinary_eq_error {b : Block} {k : ErrKind} (h : b.normBinary = .error k) :
    k = .insufficientEntropy ∧ b.cnt.val < 128 := by
  unfold Block.normBinary at h
  split at h
  · cases h
    exact ⟨rfl, ‹_›⟩
  · split at h <;> cases h

theorem Block.normHex_eq_error {b : Block} {k : ErrKind} (h : b.normHex = .error k) :
    k = .invalidHexLength ∧ b.cnt.val ≠ 32 ∧ b.cnt.val ≠ 64 := by
  unfold Block.normHex at h
  split at h
  · cases h
  split at h <;> cases h
  exact ⟨rfl, ‹_›, ‹_›⟩

theorem TextMeaning.ofNorm_eq_error {src : Src} {r : Except ErrKind (Width × BitVec 256)} {k : ErrKind}
    (h : TextMeaning.ofNorm src r = .error k) : r = .error k := by
  rcases r with k' | ⟨w, e⟩ <;> cases h
  rfl

/-- A collected text that means an error fails by R240's conditions for END in TEXT. -/
theorem raisedBy_of_collectedMeaning {s : State} {k : ErrKind} (hp : s.blk.phase = .text)
    (hm : s.blk.collectedMeaning = .error k) : raisedBy k .endText s := by
  unfold Block.collectedMeaning at hm
  split at hm
  · cases hm
  split at hm
  · obtain ⟨rfl, hshort⟩ := Block.normBinary_eq_error (TextMeaning.ofNorm_eq_error hm)
    exact ⟨rfl, ‹_›, .inl ⟨hp, hshort⟩⟩
  split at hm
  · obtain ⟨rfl, h32, h64⟩ := Block.normHex_eq_error (TextMeaning.ofNorm_eq_error hm)
    exact ⟨rfl, hp, ‹_›, h32, h64⟩
  · cases hm
    exact ⟨rfl, Bool.eq_false_iff.2 ‹_›, .inl ⟨hp, Bool.eq_false_iff.2 ‹_›⟩⟩

section

variable {s : State} (hn : s.blk.err = none)
include hn

theorem endInText_raisesAsListed (hp : s.blk.phase = .text) :
    RaisesAsListed .endText s (s.blk.endInText hash256) := by
  rw [Block.endInText_eq_carryOut]
  cases hm : s.blk.collectedMeaning with
  | defer => exact .of_noError hn
  | error k => exact .of_raise (raisedBy_of_collectedMeaning hp hm)
  | entropy w e src => exact pipeline_raisesAsListed (.inl rfl) hn w e src

theorem endInRand_raisesAsListed (hp : s.blk.phase = .rand) :
    RaisesAsListed .endText s (s.blk.endInRand hash256) := by
  unfold Block.endInRand
  split
  · exact .of_raise ⟨rfl, ‹_›, .inr hp⟩
  split
  · exact .of_raise ⟨rfl, Bool.eq_true_of_not_eq_false ‹_›, .inr ⟨hp, ‹_›⟩⟩
  · exact pipeline_raisesAsListed (.inl rfl) hn _ _ _

theorem select_raisesAsListed (c : Char8) : RaisesAsListed (.sel c) s (s.blk.select c) := by
  by_cases h0 : c = 0x30
  · subst h0
    exact .of_noError hn
  by_cases h1 : c = 0x31
  · subst h1
    exact .of_noError hn
  · rw [Block.select_of_other h0 h1, ← raise_eq_errorEntry]
    exact .of_raise ⟨c, rfl, h0, h1⟩

theorem initialise_raisesAsListed : RaisesAsListed .init s (s.blk.initialise s.provider) := by
  unfold Block.initialise
  split
  · exact .of_raise ⟨rfl, ‹_›⟩
  split
  · exact .of_raise ⟨rfl, Bool.eq_false_iff.2 ‹_›, ‹_›⟩
  · exact .of_noError hn

/-- A command that executes where there is no error raises what R240 lists, by the error sequence. -/
theorem effect_raisesAsListed {i : Instr} (bs : List Bool) (hl : legal i s.blk.phase s.blk.cnt = true) :
    RaisesAsListed i s (effect s.provider bs i s.blk) := by
  cases i with
  | nop | putc c => exact .of_noError hn
  | clear => exact .of_noError rfl
  | init => exact initialise_raisesAsListed hn
  | sel c => exact select_raisesAsListed hn c
  | draw => exact pipeline_raisesAsListed (.inr rfl) hn _ _ _
  | endText =>
    have hp : s.blk.phase = .text ∨ s.blk.phase = .rand := by simpa [legal] using hl
    rw [effect, Block.endEffect]
    split
    · exact endInRand_raisesAsListed hn ‹_›
    · exact endInText_raisesAsListed hn (hp.resolve_right ‹_›)

/-- The same of a command that answers a next state: one that is refused raises nothing. -/
theorem exec_raisesAsListed {i : Instr} {t : State} (h : exec i s = .next t) : RaisesAsListed i s t.blk := by
  obtain ⟨-, rfl⟩ | ⟨hl, -, rfl⟩ | ⟨bs, src, rfl, hl, -, rfl⟩ := exec_cases h
  · exact .of_noError hn
  · exact effect_raisesAsListed hn [] hl
  · exact effect_raisesAsListed hn bs hl

end

/-- Settles O35: the error sequence, run on the block INIT has latched into, or on the block from before. -/
theorem errorEntryLeavesNothingPartial : Obligations.ErrorEntryLeavesNothingPartial := by
  intro i s t e h hn he
  obtain ⟨-, hraise⟩ := exec_raisesAsListed hn h e he
  rw [raise_eq_errorEntry] at hraise
  by_cases hi : i = .init
  · rw [State.raisingBlock, if_pos hi] at hraise
    rw [hraise]
    exact ⟨rfl, fun _ => ⟨rfl, rfl, rfl, rfl⟩, fun hne => absurd hi hne⟩
  · rw [State.raisingBlock, if_neg hi] at hraise
    rw [hraise]
    exact ⟨rfl, fun heq => absurd heq hi, fun _ => ⟨rfl, rfl, rfl, rfl⟩⟩

/-- Settles O36: the kind raised is one R240 lists, and the error sequence enters its phase. -/
theorem errorKindsAreRaisedAsListed : Obligations.ErrorKindsAreRaisedAsListed := by
  intro i s t e h hn he
  obtain ⟨hwhen, hraise⟩ := exec_raisesAsListed hn h e he
  refine ⟨hwhen, ?_⟩
  rw [hraise, raise_eq_errorEntry]
  rfl

/-! ### Leaving an error -/

/-- A kind in `ERR` is there in ERROR or FATAL only (10_state.md R41 (d)). -/
theorem Block.ControlInv.phase_of_err {b : Block} (h : b.ControlInv) {e : ErrKind} (he : b.err = some e) :
    b.phase = .error ∨ b.phase = .fatal := by
  by_contra hp
  obtain ⟨hne, hnf⟩ := not_or.1 hp
  rw [h.err_eq_none hne hnf] at he
  cases he

/-- In ERROR and FATAL only NOP executes, and in ERROR also CLEAR (45_control.md R224). -/
theorem legal_iff_of_error {i : Instr} {p : Phase} {cnt : Fin 257} (hp : p = .error ∨ p = .fatal) :
    legal i p cnt = true ↔ i = .nop ∨ i = .clear ∧ p = .error := by
  rcases hp with rfl | rfl <;> cases i <;> simp [legal]

/-- A step in ERROR or FATAL keeps the phase and the error, or it is CLEAR in ERROR or a reset: a refusal and the write
of `WSEL` touch neither (60_exceptions.md R252). -/
theorem step_of_error {s t : State} (h : step s = .next t) (hp : s.blk.phase = .error ∨ s.blk.phase = .fatal) :
    (t.blk.phase = s.blk.phase ∧ t.blk.err = s.blk.err) ∨
    (s.blk.phase = .error ∧ runsCommand s .clear ∧ t.blk.phase = .text ∧ t.blk.err = none) ∨
    (t.blk.err = none ∧ ∃ rest, s.pending = .hardReset :: rest) := by
  have hcause := step_blockCause h
  generalize t.blk = b at hcause ⊢
  cases hcause with
  | stay | refused | wsel => exact .inl ⟨rfl, rfl⟩
  | hardReset rest hrst => exact .inr (.inr ⟨rfl, rest, hrst⟩)
  | command i bs hrun hl =>
    rcases (legal_iff_of_error hp).1 hl with rfl | ⟨rfl, herror⟩
    · exact .inl ⟨rfl, rfl⟩
    · exact .inr (.inl ⟨herror, hrun, rfl, rfl⟩)

/-- Settles O37: by R41 (d) the block is in ERROR or FATAL, where the error stays or is emptied. -/
theorem errorIsNeverOverwritten : Obligations.ErrorIsNeverOverwritten := by
  intro s t e hinv h he
  obtain ⟨-, hcontrol, -⟩ := s.blk.inv_iff.1 hinv
  obtain ⟨-, hkept⟩ | ⟨-, -, -, hnone⟩ | ⟨hnone, -⟩ := step_of_error h (hcontrol.phase_of_err he)
  · exact .inl (hkept.trans he)
  · exact .inr hnone
  · exact .inr hnone

/-- A command that R224's matrix does not allow in ERROR or FATAL is an illegal command there (45_control.md R223). -/
theorem exec_illegal_of_error {i : Instr} {s : State} (hp : s.blk.phase = .error ∨ s.blk.phase = .fatal)
    (hnop : i ≠ .nop) (hclear : i = .clear → s.blk.phase ≠ .error) : exec i s = .next (withCmderr s) := by
  refine exec_illegal (Bool.eq_false_iff.2 fun hl => ?_)
  rcases (legal_iff_of_error hp).1 hl with hi | ⟨hi, herror⟩
  · exact hnop hi
  · exact hclear hi herror

/-- Settles O38: in FATAL the way out by CLEAR is closed, since CLEAR executes in ERROR only. -/
theorem errorIsLeftAsListed : Obligations.ErrorIsLeftAsListed := by
  refine ⟨fun s t h hp => ?fatal, fun s t h hp => ?error, fun i s hp hnop => ?fatalIllegal,
    fun i s hp hnop hclear => ?errorIllegal⟩
  case fatal =>
    obtain ⟨hphase, herr⟩ | ⟨herror, -⟩ | ⟨-, hrst⟩ := step_of_error h (.inr hp)
    · exact .inl ⟨hphase.trans hp, herr⟩
    · rw [hp] at herror
      cases herror
    · exact .inr hrst
  case error =>
    obtain ⟨hphase, herr⟩ | ⟨-, hclear⟩ | ⟨-, hrst⟩ := step_of_error h (.inl hp)
    · exact .inl ⟨hphase.trans hp, herr⟩
    · exact .inr (.inl hclear)
    · exact .inr (.inr hrst)
  case fatalIllegal => exact exec_illegal_of_error (.inr hp) hnop fun _ => by simp [hp]
  case errorIllegal => exact exec_illegal_of_error (.inl hp) hnop fun hc => absurd hc hclear

end Sys2Proof.Machine
end

section
/-!
PROOF. Reset and what stops the machine (70_reset_and_hazards.md R280, R281, R287): a step answers a next state unless it
runs DRAW on a Bit Source that does not answer N requests.
-/

namespace Sys2Proof.Machine

open Sys2Proof.Claims
open Host (Outcome)

/-! ### Reset -/

theorem Block.doneOut_iff (b : Block) : b.doneOut = true ↔ b.phase = .done := by
  simp [Block.doneOut]

theorem Block.errorOut_iff (b : Block) : b.errorOut = true ↔ b.phase = .error ∨ b.phase = .fatal := by
  simp [Block.errorOut]

/-- Settles O8: the outputs at reset by evaluation, and the two mirrors of `PHASE` in every state. -/
theorem resetOutputs : Obligations.ResetOutputs :=
  ⟨by decide, fun s => ⟨s.blk.doneOut_iff, s.blk.errorOut_iff⟩⟩

/-- Settles O9, by the step's own equation for a reset event. -/
theorem hardResetFromAnyState : Obligations.HardResetFromAnyState :=
  fun s rest hp => ⟨(s.accept rest).hardReset, step_cons hp, rfl, rfl, rfl⟩

/-! ### A silent source under DRAW -/

theorem BitSource.not_answers_iff {src : BitSource} {n : Nat} :
    ¬ src.Answers n ↔ src.live = false ∧ src.queue.length < n := by
  simp [BitSource.Answers]

/-- A source that is not live answers from its queue alone, so more draws than the queue holds find it empty. -/
theorem drawBits_eq_none {queue : List Bool} {requests n : Nat} (h : queue.length < n) :
    drawBits n { queue, live := false, requests } = none := by
  induction n generalizing queue requests with
  | zero => exact absurd h (Nat.not_lt_zero _)
  | succ n ih =>
    cases queue with
    | nil => rfl
    | cons b q => simp [drawBits, BitSource.answer, ih (Nat.lt_of_succ_lt_succ h)]

/-- The draws fail exactly on a source that does not answer them (compare `BitSource.Answers.drawBits_eq`). -/
theorem drawBits_eq_none_iff {src : BitSource} {n : Nat} : drawBits n src = none ↔ ¬ src.Answers n := by
  constructor
  · intro hnone ha
    cases hnone.symm.trans ha.drawBits_eq
  · intro h
    obtain ⟨queue, live, requests⟩ := src
    obtain ⟨rfl, hlen⟩ := BitSource.not_answers_iff.1 h
    exact drawBits_eq_none hlen

/-- Settles O23: the draws of a silent source fail, and DRAW with them. -/
theorem drawHangsOnASilentSource : Obligations.DrawHangsOnASilentSource :=
  fun _ hp hc ha => exec_draw_silent (by simp [legal, hp, hc]) (drawBits_eq_none_iff.2 ha)

/-! ### What stops the machine -/

/-- The Bit Source does not answer the N requests of a DRAW in this state. -/
def State.SourceSilent (s : State) : Prop := ¬ s.bits.Answers s.blk.width.entropyBits

/-- `o` is a next state, or the fault of DRAW, and then `P` holds. -/
def NextOrSilent (P : Prop) (o : Outcome State Fault Refusal) : Prop :=
  (∃ t, o = .next t) ∨ o = .fault .bitSourceSilent ∧ P

theorem NextOrSilent.next {P : Prop} (t : State) : NextOrSilent P (.next t) := .inl ⟨t, rfl⟩

theorem NextOrSilent.imp {P Q : Prop} {o : Outcome State Fault Refusal} (h : NextOrSilent P o) (hPQ : P → Q) :
    NextOrSilent Q o := Or.imp_right (And.imp_right hPQ) h

theorem NextOrSilent.of_fault {P : Prop} {r : Fault} (h : NextOrSilent P (.fault r)) : r = .bitSourceSilent ∧ P := by
  obtain ⟨t, ht⟩ | ⟨hr, hP⟩ := h
  · cases ht
  · cases hr
    exact ⟨rfl, hP⟩

theorem NextOrSilent.ne_refused {P : Prop} {o : Outcome State Fault Refusal} (h : NextOrSilent P o) (r : Refusal) :
    o ≠ .refused r := by
  obtain ⟨t, rfl⟩ | ⟨rfl, -⟩ := h <;> simp

theorem exec_nextOrSilent (i : Instr) (s : State) : NextOrSilent (i = .draw ∧ s.SourceSilent) (exec i s) := by
  rcases hl : legal i s.blk.phase s.blk.cnt with _ | _
  · rw [exec_illegal hl]
    exact .next _
  by_cases hd : i = .draw
  · subst hd
    rcases hb : drawBits s.blk.width.entropyBits s.bits with _ | ⟨bs, src⟩
    · exact .inr ⟨exec_draw_silent hl hb, rfl, drawBits_eq_none_iff.1 hb⟩
    · rw [exec_draw hl hb]
      exact .next _
  · rw [exec_legal hl hd]
    exact .next _

/-- A write of a word to `CMD` stops only if the word is DRAW's. -/
theorem runCommand_nextOrSilent (v : Word32) (s : State) :
    NextOrSilent (decode v = .command .draw ∧ s.SourceSilent) (runCommand v s) := by
  unfold runCommand
  rcases hd : decode v with i | why
  · exact (exec_nextOrSilent i s).imp fun ⟨hi, hs⟩ => ⟨congrArg _ hi, hs⟩
  · exact .next _

/-- An event stops only as the write of DRAW's word to `CMD`. -/
theorem runEvent_nextOrSilent (e : Event) (s : State) :
    NextOrSilent ((∃ v, e = .write (Reg.offset .cmd) v ∧ decode v = .command .draw) ∧ s.SourceSilent)
      (runEvent e s) := by
  cases e with
  | write a v =>
    simp only [runEvent, memWrite]
    split
    · exact .next _
    split
    · subst a
      exact (runCommand_nextOrSilent v (s.respond none)).imp fun ⟨hd, hs⟩ => ⟨⟨v, rfl, hd⟩, hs⟩
    · exact .next _
  | read a =>
    simp only [runEvent, memRead]
    rcases Reg.ofAddr a with _ | r
    · exact .next _
    dsimp only
    split <;> exact .next _
  | hardReset => exact .next _
  | provider p => exact .next _

theorem step_nextOrSilent (s : State) : NextOrSilent (runsCommand s .draw ∧ s.SourceSilent) (step s) := by
  rcases hp : s.pending with _ | ⟨e, rest⟩
  · rw [step_nil hp]
    exact .next s
  · rw [step_cons hp]
    exact (runEvent_nextOrSilent e (s.accept rest)).imp fun ⟨⟨v, he, hd⟩, hs⟩ => ⟨⟨v, rest, he ▸ hp, hd⟩, hs⟩

/-- Settles O24: every step answers a next state or is a DRAW on a silent source. -/
theorem onlyASilentSourceStops : Obligations.OnlyASilentSourceStops :=
  fun s => ⟨fun _ h => NextOrSilent.of_fault (h ▸ step_nextOrSilent s), (step_nextOrSilent s).ne_refused⟩

end Sys2Proof.Machine
end
